-- ==== Sys2Proof/Word.lean ====
section
/-! DEFINITION. The machine word of the TanScript bytecode core and its plainest arithmetic:
00_scope.md rules R6 and R7. -/

namespace Sys2Proof

/-- A word: `W = 32` bits (00_scope.md R5, decision D1). Its signed reading is `BitVec.toInt`. -/
abbrev Word := BitVec 32

/-- Eight bits: an opcode field of a slot (R92), a byte of a source text (R91), a byte of output text (R80). -/
abbrev Byte := BitVec 8

/-- `INT_MIN` of R6. -/
def intMin : Int := -2147483648

/-- `INT_MAX` of R6. -/
def intMax : Int := 2147483647

/-- "a value of `Int_W`" (R6): the integer `x` is a word. -/
abbrev IsWord (x : Int) : Prop := intMin ≤ x ∧ x ≤ intMax

/-- `wrap(x)` of R7: the unique word congruent to `x` modulo `2^W`. -/
def wrap (x : Int) : Word := BitVec.ofInt 32 x

end Sys2Proof
end

