-- ==== Sys2Proof/Config.lean ====
section
/-! DEFINITION. The implementation parameters of 00_scope.md rule R5, and the one free value of the
model: the word an undefined stack cell holds. -/

namespace Sys2Proof

/-- The parameters of R5 that the spec leaves `OPEN` or gives as a switch. `W`, `OPCODE_BITS` and
`OPCODE_MAP` stand at the values R5 gives (Word.lean, Syntax.lean, Decode.lean). A machine state
carries its parameters, so a statement about every state is a statement about every choice of them
(DESIGN CHOICE, notes/assumptions/1.md). -/
structure Config where
  /-- `MAX_STACK_SIZE`: the number of cells of the stack memory (OPEN, decision D2). -/
  maxStackSize : Nat
  /-- `IMEM_DEPTH`: the number of slots the instruction memory can hold (OPEN, decision D3). -/
  imemDepth : Nat
  /-- `OVERFLOW_TRAP`: signed overflow raises ArithmeticError(Overflow) instead of wrapping (D7). -/
  overflowTrap : Bool
  /-- `UNINIT_CHECK`: reading a cell whose defined bit is 0 raises UndefinedRead (D21). -/
  uninitCheck : Bool
  /-- `UNFRAME_POPS`: UNFRAME lowers sp by one (reading B) instead of keeping it (reading A) (D15). -/
  unframePops : Bool
deriving DecidableEq, Repr

/-- The switches at the defaults of R5. The two OPEN sizes have no value in the spec: 65536 here is a
DESIGN CHOICE, unsafe (notes/assumptions/2.md); no statement but InvariantHoldsAtReset rests on it. -/
def Config.standard : Config :=
  { maxStackSize := 65536, imemDepth := 65536, overflowTrap := false, uninitCheck := true, unframePops := false }

/-- The content of an undefined cell, "unspecified" in R35, R46 and R66: `unspecifiedWord a d` is the
word cell `a` holds when draw number `d` made it undefined. It has no body, so no proof can know a
value of it (93_implementation_defined.md U1, U2: "any value"; DESIGN CHOICE, safe: notes/assumptions/5.md). -/
opaque Config.unspecifiedWord : Nat → Nat → Word

end Sys2Proof
end

