-- ==== Sys2Proof/Syntax.lean ====
section
/-! DEFINITION. The 33 instructions of the TanScript bytecode core (30_encoding.md rule R95), one
constructor for each row of spec/opcode_table.json, and the instruction slot (R92). -/

namespace Sys2Proof

/-- The instructions in the order of R95. An operand is the W-bit signed word of slot field `a` (R96);
the assembler aliases ADDI, SUBI, MULI, DIVI and MODI are second names, not instructions (C1). -/
inductive Instr where
  /-- R110 -/
  | add
  /-- R111 -/
  | sub
  /-- R112 -/
  | mul
  /-- R113 -/
  | div
  /-- R114 -/
  | mod
  /-- R115 -/
  | less
  /-- R116 -/
  | leq
  /-- R117 -/
  | eq
  /-- R118 -/
  | neq
  /-- R119 -/
  | geq
  /-- R120 -/
  | greater
  /-- R121 -/
  | and
  /-- R122 -/
  | or
  /-- R123 -/
  | not
  /-- R130 -/
  | push (imm : Word)
  /-- R131 -/
  | pop
  /-- R132 -/
  | load (offset : Word)
  /-- R133 -/
  | store (offset : Word)
  /-- R134 -/
  | alloc (n : Word)
  /-- R160 -/
  | frame (delta : Word)
  /-- R161 -/
  | unframe
  /-- R135 -/
  | storesp
  /-- R136 -/
  | storespoffset
  /-- R137 -/
  | storestack
  /-- R150 -/
  | goto (target : Word)
  /-- R151 -/
  | jump (delta : Word)
  /-- R152 -/
  | jmpt (delta : Word)
  /-- R153 -/
  | jmpf (delta : Word)
  /-- R180 -/
  | printc
  /-- R181 -/
  | printint
  /-- R162 -/
  | pushstack
  /-- R165 -/
  | popstack
  /-- RETURN, R166 -/
  | ret
deriving DecidableEq, Repr

/-- One slot of the instruction memory (R92): the opcode field and the two operand fields, which the
core receives as the parallel signals `imem_op`, `imem_a` and `imem_b` (R44). -/
structure Slot where
  op : Byte
  a : Word
  b : Word
deriving DecidableEq, Repr

end Sys2Proof
end

