-- ==== Sys2Proof/WellFormed.lean ====
section
/-! DEFINITION. Well-formedness: of the parameters (00_scope.md R5), of a slot as the loader writes it
(30_encoding.md R92 to R95), and of a program. Every term of `Instr` is well formed, since every word is
a legal operand of every opcode that has one ("The loader places no range restriction on operands
beyond rule R91", R96) and the types hold nothing else. -/

namespace Sys2Proof

/-- The bounds R5 puts on the OPEN parameters. -/
abbrev Config.WellFormed (c : Config) : Prop :=
  1 ≤ c.maxStackSize ∧ (c.maxStackSize : Int) ≤ intMax ∧ (c.imemDepth : Int) ≤ intMax

/-- The ordinals whose arity is 1 in the table of R95, transcribed here a second time, apart from the
decoder's own table; Laws/PerInstr.lean shows that the two agree. -/
def arityOneOrdinals : List Nat := [14, 16, 17, 18, 19, 24, 25, 26, 27]

/-- A slot as the loader of R93 writes it: the op is in the opcode map, the reserved field `b` is 0,
and field `a` of an arity-0 opcode is 0 (R94, R98). The core itself ignores the reserved fields. -/
def Slot.wellFormed (sl : Slot) : Bool :=
  decide (sl.op.toNat ≤ 32) && decide (sl.b = 0)
    && (arityOneOrdinals.contains sl.op.toNat || decide (sl.a = 0))

/-- A program the loader can have written: N ≤ IMEM_DEPTH (R5) and every slot well formed. -/
def programWellFormed (c : Config) (prog : List Slot) : Bool :=
  decide (prog.length ≤ c.imemDepth) && prog.all Slot.wellFormed

end Sys2Proof
end

