-- ==== Sys2Proof/Machine/State.lean ====
section
/-! DEFINITION. The machine's state as plain data (10_state.md), its fatal errors (60_exceptions.md
R200), the model's stops, and the state right after reset (R46). -/

namespace Sys2Proof.Machine

/-- `run` of R38: "the engine has exactly two states, RUNNING and HALTED". -/
inductive RunState where
  | running
  | halted
deriving DecidableEq, Repr

/-- `err` of R38 with the codes of R200. Codes 10 to 15 are reserved and never produced (U16). -/
inductive ErrCode where
  | none
  | stackOverflow
  | insufficientOperands
  | programCounterOutOfBounds
  | frameInvariantViolation
  | arithmeticError
  | unknownOpcode
  | addressOutOfBounds
  | undefinedRead
  /-- The loader's verdict; the core never raises it (R215). -/
  | loadError
deriving DecidableEq, Repr

/-- The causes R200 lists for FrameInvariantViolation. -/
inductive FrameCause where
  | invariant
  | noEnclosingFrame
  | badSavedBp
deriving DecidableEq, Repr

/-- The causes R200 lists for ArithmeticError. -/
inductive ArithCause where
  | divisionByZero
  | overflow
deriving DecidableEq, Repr

/-- What `raise E(info)` names (R200, R201). "The core keeps no register" for the info: only its code
reaches the state. -/
inductive FatalError where
  | stackOverflow
  | insufficientOperands (n : Int)
  | programCounterOutOfBounds (pc : Int)
  | frameInvariantViolation (cause : FrameCause)
  | arithmeticError (cause : ArithCause)
  | unknownOpcode (op : Byte)
  | addressOutOfBounds (ea : Int)
  | undefinedRead (a : Int)
deriving DecidableEq, Repr

/-- The kind of an output event (R37). -/
inductive OutKind where
  | char
  | int
deriving DecidableEq, Repr

/-- An output event: the pair (kind, value) of R37. -/
structure OutEvent where
  kind : OutKind
  value : Word
deriving DecidableEq, Repr

/-- The defined bit `D[a]` of a cell that has been written since reset (R35): 1, or 0 since the draw of
that number made the cell undefined (the number is the model's own: DESIGN CHOICE,
safe, notes/assumptions/5.md). -/
inductive Definedness where
  | defined
  | undefinedSince (draw : Nat)
deriving DecidableEq, Repr

/-- A stack cell that has been written since reset: its content `S[a]` and its defined bit `D[a]` (R35). -/
structure StackCell where
  word : Word
  status : Definedness
deriving DecidableEq, Repr

/-- The stack memory: pairs of a cell index and its cell, indexes strictly rising. A cell that is not
listed has not been written since reset: its `D` is 0 and its content is unspecified (R35, R46). The
unit is the whole word cell, the only thing an access can name (R61; DESIGN CHOICE, safe,
notes/assumptions/4.md). -/
abbrev Memory := List (Nat × StackCell)

/-- The host's `out_ready` input (R44): the samples the coming offers will see, then the level the pin
keeps (DESIGN CHOICE, unsafe where a claim counts steps or takes a step for progress,
notes/assumptions/6.md). -/
structure OutReady where
  samples : List Bool
  level : Bool
deriving DecidableEq, Repr

/-- Everything the machine holds. -/
structure State where
  /-- Program counter (R31). -/
  pc : Word
  /-- Stack pointer, one past the top (R33). -/
  sp : Word
  /-- Base pointer of the current frame (R34). -/
  bp : Word
  /-- Return-value register (R36). -/
  rv : Word
  /-- The stack memory S with its defined bits D (R35). -/
  mem : Memory
  /-- OUT, the events emitted since reset, oldest first (R37). -/
  out : List OutEvent
  /-- RUNNING or HALTED (R38). -/
  run : RunState
  /-- The error code (R38, R200). -/
  err : ErrCode
  /-- The level of the `rst` input (R44, R230). -/
  rst : Bool
  /-- The event that has been offered and not yet accepted, held over the steps in which its print waits
  (R79). What `out_valid`, `out_kind` and `out_data` show is `State.offering` (Machine/Io.lean). -/
  offer : Option OutEvent
  /-- The run's program, `IMEM[0 .. N-1]` (R43): written by the loader only. -/
  imem : List Slot
  /-- The parameters of R5. -/
  cfg : Config
  /-- The host's `out_ready` input (R44). -/
  ready : OutReady
  /-- The model's own: the number of the draw that stands for what the last reset left in S. -/
  resetDraw : Nat
  /-- The model's own: the number of the next draw. -/
  nextDraw : Nat
deriving DecidableEq, Repr

/-- Why a step answers no next state. The spec's own fatal errors are NOT here: they are next states
with `run = HALTED` and an error code (R201). -/
inductive Fault where
  /-- Raised by `step` alone, in a state whose `run` is HALTED: "When run = HALTED there is no step"
  (R203). Safe: the machine stops where the hardware stops; only the host's reset goes on. -/
  | halted
  /-- Raised by `step` alone, while the host holds `rst` at 1: "While rst = 1 the core performs no step"
  (R230). Safe: the machine stops where the hardware stops; the host's release goes on. -/
  | heldInReset
deriving DecidableEq, Repr

/-- Why an instruction has no meaning. -/
inductive Refusal where
  /-- Raised by an arm of `exec` whose instruction has no meaning yet; no arm does so any more. Safe:
  the model stops. -/
  | notModelled (mnemonic : String)
deriving DecidableEq, Repr

/-- The state right after reset (R46, R230): the registers zeroed, every D = 0, OUT empty, RUNNING,
err 0, `rst` released, nothing offered. No program is loaded (N = 0; DESIGN CHOICE,
notes/assumptions/3.md); the OPEN parameters and the host's input are the choices of
notes/assumptions/2.md and 6.md (DESIGN CHOICE, unsafe). -/
def State.reset : State :=
  { pc := 0, sp := 0, bp := 0, rv := 0
    mem := [], out := [], run := .running, err := .none, rst := false, offer := none
    imem := [], cfg := Config.standard, ready := { samples := [], level := true }
    resetDraw := 0, nextDraw := 1 }

end Sys2Proof.Machine
end

