-- ==== Sys2Proof/Machine/Flags.lean ====
section
/-! DEFINITION. The core has no flags, condition codes or predicate registers (10_state.md R41, 40_alu.md
R104). What takes their place: the words 0 and 1 a comparison pushes, truth (00_scope.md R9), and the
one overflow rule of the ALU (40_alu.md R103). -/

namespace Sys2Proof.Machine

/-- `bool(c)` of R9: the word 1 when the condition holds and 0 otherwise. -/
def boolWord (c : Bool) : Word := if c then 1 else 0

/-- "A word v is *truthy* when v != 0" (R9). -/
def truthy (v : Word) : Bool := v != 0

/-- R103: an exact result that is a word is the result; any other wraps, or raises
ArithmeticError(Overflow) when OVERFLOW_TRAP. -/
def narrow (c : Config) (x : Int) : Except FatalError Word :=
  if IsWord x then .ok (wrap x)
  else if c.overflowTrap then .error (.arithmeticError .overflow)
  else .ok (wrap x)

end Sys2Proof.Machine
end

