-- ==== Sys2Proof/Decode.lean ====
section
/-! DEFINITION. The decoder, total on every slot and every 72-bit packed word, and the encoder, both
written from the opcode map of 30_encoding.md rules R92 to R98. -/

namespace Sys2Proof

/-- Why a slot is no instruction (R98 (b), R207). -/
inductive DecodeError where
  /-- An op outside 0 to 32. -/
  | unknownOpcode (op : Byte)
deriving DecidableEq, Repr

/-- Dispatch selects by the op field alone (R97): fields `b`, and `a` of an arity-0 opcode, are
ignored (R94). -/
def decode (sl : Slot) : Except DecodeError Instr :=
  match sl.op.toNat with
  | 0 => .ok .add
  | 1 => .ok .sub
  | 2 => .ok .mul
  | 3 => .ok .div
  | 4 => .ok .mod
  | 5 => .ok .less
  | 6 => .ok .leq
  | 7 => .ok .eq
  | 8 => .ok .neq
  | 9 => .ok .geq
  | 10 => .ok .greater
  | 11 => .ok .and
  | 12 => .ok .or
  | 13 => .ok .not
  | 14 => .ok (.push sl.a)
  | 15 => .ok .pop
  | 16 => .ok (.load sl.a)
  | 17 => .ok (.store sl.a)
  | 18 => .ok (.alloc sl.a)
  | 19 => .ok (.frame sl.a)
  | 20 => .ok .unframe
  | 21 => .ok .storesp
  | 22 => .ok .storespoffset
  | 23 => .ok .storestack
  | 24 => .ok (.goto sl.a)
  | 25 => .ok (.jump sl.a)
  | 26 => .ok (.jmpt sl.a)
  | 27 => .ok (.jmpf sl.a)
  | 28 => .ok .printc
  | 29 => .ok .printint
  | 30 => .ok .pushstack
  | 31 => .ok .popstack
  | 32 => .ok .ret
  | _ => .error (.unknownOpcode sl.op)

/-- The fields of the packed form `op, a, b` of R92: op = bits 71:64, a = bits 63:32, b = bits 31:0. -/
def Slot.unpack (w : BitVec 72) : Slot :=
  { op := w.extractLsb' 64 8, a := w.extractLsb' 32 32, b := w.extractLsb' 0 32 }

/-- The packed form of R92. -/
def Slot.pack (sl : Slot) : BitVec 72 := sl.op ++ sl.a ++ sl.b

/-- The decoder on a packed word. -/
def decodeWord (w : BitVec 72) : Except DecodeError Instr := decode (Slot.unpack w)

/-- `nbits` bits `w` of an instruction as spec/opcode_table.json numbers them; the bits above `nbits`
are 0. The table's rows are the packed 72-bit slots of R92. -/
def tableSlot (nbits w : Nat) : Slot := Slot.unpack (BitVec.ofNat 72 (w % 2 ^ nbits))

/-- The instruction the decoder reads from a word of spec/opcode_table.json. -/
def decodeTableWord (nbits w : Nat) : Option Instr :=
  match decode (tableSlot nbits w) with
  | .ok i => some i
  | .error _ => none

/-! ### The encoder -/

/-- The ordinal of R95. -/
def Instr.ordinal : Instr → Nat
  | .add => 0
  | .sub => 1
  | .mul => 2
  | .div => 3
  | .mod => 4
  | .less => 5
  | .leq => 6
  | .eq => 7
  | .neq => 8
  | .geq => 9
  | .greater => 10
  | .and => 11
  | .or => 12
  | .not => 13
  | .push _ => 14
  | .pop => 15
  | .load _ => 16
  | .store _ => 17
  | .alloc _ => 18
  | .frame _ => 19
  | .unframe => 20
  | .storesp => 21
  | .storespoffset => 22
  | .storestack => 23
  | .goto _ => 24
  | .jump _ => 25
  | .jmpt _ => 26
  | .jmpf _ => 27
  | .printc => 28
  | .printint => 29
  | .pushstack => 30
  | .popstack => 31
  | .ret => 32

/-- The operand of an arity-1 instruction (R94, R96). -/
def Instr.operand : Instr → Option Word
  | .push imm => some imm
  | .load offset => some offset
  | .store offset => some offset
  | .alloc n => some n
  | .frame delta => some delta
  | .goto target => some target
  | .jump delta => some delta
  | .jmpt delta => some delta
  | .jmpf delta => some delta
  | .add | .sub | .mul | .div | .mod => none
  | .less | .leq | .eq | .neq | .geq | .greater => none
  | .and | .or | .not => none
  | .pop | .unframe | .storesp | .storespoffset | .storestack => none
  | .printc | .printint | .pushstack | .popstack | .ret => none

/-- The arity of an opcode tag (R94, R95); a number outside the opcode map has none. -/
def opcodeArity (tag : Nat) : Option Nat :=
  match tag with
  | 14 | 16 | 17 | 18 | 19 | 24 | 25 | 26 | 27 => some 1
  | n => if n ≤ 32 then some 0 else none

/-- The slot of an instruction, with 0 in every reserved field (R93, R94). -/
def encode (i : Instr) : Slot :=
  { op := BitVec.ofNat 8 i.ordinal, a := i.operand.getD 0, b := 0 }

/-- The packed 72-bit word of an instruction (R92). -/
def encodeWord (i : Instr) : BitVec 72 := (encode i).pack

/-- The integers of an instruction in the token stream (R90): the opcode tag, then its operand. -/
def Instr.tokens (i : Instr) : List Int :=
  match i.operand with
  | some w => [(i.ordinal : Int), w.toInt]
  | none => [(i.ordinal : Int)]

end Sys2Proof
end

