-- ==== Sys2Proof/Machine/Ops.lean ====
section
/-! DEFINITION. The named operations every instruction is written over: the stack memory, the register
updates, the checks and access primitives of 20_memory.md R62 to R69, the output channel (R79), fatal
errors (60_exceptions.md R201), and the front end of a step (R203). -/

namespace Sys2Proof.Machine

/-! ### The stack memory -/

/-- The cell listed at index `a`, if it has been written since reset. -/
def Memory.lookup : Memory → Nat → Option StackCell
  | [], _ => none
  | (k, c) :: rest, a => if k = a then some c else Memory.lookup rest a

/-- Put a cell at index `a`, keeping the indexes rising. -/
def Memory.insert : Memory → Nat → StackCell → Memory
  | [], a, c => [(a, c)]
  | (k, d) :: rest, a, c =>
    if a < k then (a, c) :: (k, d) :: rest
    else if a = k then (a, c) :: rest
    else (k, d) :: Memory.insert rest a c

/-- `D <- 0` for one cell (R134): its content stays, and a cell that is undefined already stays
undefined by its earlier draw. -/
def StackCell.undefine (draw : Nat) (c : StackCell) : StackCell :=
  match c.status with
  | .defined => { c with status := .undefinedSince draw }
  | .undefinedSince _ => c

/-- `D[a] <- 0` for every cell `lo <= a < hi` (R134). A cell that is not listed is undefined already. -/
def Memory.undefine (m : Memory) (lo hi : Int) (draw : Nat) : Memory :=
  m.map fun p => if lo ≤ (p.1 : Int) ∧ (p.1 : Int) < hi then (p.1, p.2.undefine draw) else p

/-- The canonical form of the stack memory: indexes strictly rising. An unlisted cell has no content, so
no listed cell equals what an unlisted one reads as. -/
abbrev Memory.wf (m : Memory) : Prop := m.Pairwise fun p q => p.1 < q.1

/-- Every listed cell exists: its index is below the capacity (R35). -/
abbrev Memory.within (m : Memory) (capacity : Nat) : Prop := ∀ p ∈ m, p.1 < capacity

/-! ### Register updates -/

/-- `pc <- x`: an explicit pc write, to which no increment is added (R32). -/
def State.setPc (s : State) (x : Word) : State := { s with pc := x }

/-- `sp <- x`. -/
def State.setSp (s : State) (x : Int) : State := { s with sp := wrap x }

/-- `bp <- x`. -/
def State.setBp (s : State) (x : Word) : State := { s with bp := x }

/-- `rv <- x`. -/
def State.setRv (s : State) (x : Word) : State := { s with rv := x }

/-- The auto-increment `pc <- pc + 1` (R32). -/
def State.advance (s : State) : State := { s with pc := wrap (s.pc.toInt + 1) }

/-- `S[a] <- v` and `D[a] <- 1` (R67). -/
def State.setCell (s : State) (a : Nat) (v : Word) : State :=
  { s with mem := s.mem.insert a { word := v, status := .defined } }

/-- `D[a] <- 0` for `lo <= a < hi`, contents unchanged (R134): one draw of the free value. -/
def State.undefineCells (s : State) (lo hi : Int) : State :=
  { s with mem := s.mem.undefine lo hi s.nextDraw, nextDraw := s.nextDraw + 1 }

/-! ### Reading the state -/

/-- The cell at index `a`, if it has been written since reset. -/
def State.cellAt (s : State) (a : Nat) : Option StackCell := s.mem.lookup a

/-- The defined bit `D[a]` (R35). -/
def State.isDefined (s : State) (a : Nat) : Bool :=
  match s.cellAt a with
  | some { status := .defined, .. } => true
  | _ => false

/-- The word cell `a` holds: `S[a]` where `D[a] = 1`, and the free value of its draw where
`D[a] = 0` ("the value is unspecified", R66). -/
def State.cellWord (s : State) (a : Nat) : Word :=
  match s.cellAt a with
  | some { word := w, status := .defined } => w
  | some { status := .undefinedSince d, .. } => Config.unspecifiedWord a d
  | none => Config.unspecifiedWord a s.resetDraw

/-- N, the length of the loaded program (R43). -/
def State.progLen (s : State) : Int := s.imem.length

/-- `FrameOK` of R39. -/
abbrev FrameOK (s : State) : Prop :=
  0 ≤ s.sp.toInt ∧ s.sp.toInt ≤ s.cfg.maxStackSize ∧
  0 ≤ s.bp.toInt ∧ s.bp.toInt ≤ s.cfg.maxStackSize ∧ s.bp.toInt ≤ s.sp.toInt

/-! ### Fatal errors: the one way an exception is taken -/

/-- The code of an error (R200). -/
def FatalError.code : FatalError → ErrCode
  | .stackOverflow => .stackOverflow
  | .insufficientOperands _ => .insufficientOperands
  | .programCounterOutOfBounds _ => .programCounterOutOfBounds
  | .frameInvariantViolation _ => .frameInvariantViolation
  | .arithmeticError _ => .arithmeticError
  | .unknownOpcode _ => .unknownOpcode
  | .addressOutOfBounds _ => .addressOutOfBounds
  | .undefinedRead _ => .undefinedRead

/-- The number of a code in the 4-bit err field (R38, R200). -/
def ErrCode.bits : ErrCode → BitVec 4
  | .none => 0
  | .stackOverflow => 1
  | .insufficientOperands => 2
  | .programCounterOutOfBounds => 3
  | .frameInvariantViolation => 4
  | .arithmeticError => 5
  | .unknownOpcode => 6
  | .addressOutOfBounds => 7
  | .undefinedRead => 8
  | .loadError => 9

/-- The core stops: HALTED with the given code. HALTED makes "no output" (R226), so nothing is offered
(DEDUCED, safe, notes/assumptions/8.md). -/
def State.haltWith (s : State) (code : ErrCode) : State :=
  { s with run := .halted, err := code, offer := none }

/-- `raise E(info)` (R201): `err <- code(E)` and `run <- HALTED`; pc, sp, bp, rv, S, D and OUT keep
their values. There is no handler and no return: HALTED is left only by reset (R210, R211). -/
def State.raise (s : State) (e : FatalError) : State := s.haltWith e.code

/-- Check-then-commit (R12): a rule is computed as its checks and its writes together; one that raised
commits nothing but the error. -/
def commit (s : State) (r : Except FatalError State) : Host.Outcome State Fault Refusal :=
  match r with
  | .ok t => .next t
  | .error e => .next (s.raise e)

/-! ### Checks and access primitives -/

/-- `Require(n)`, the stack-size validator (R64). -/
def require (s : State) (n : Int) : Except FatalError Unit :=
  if s.sp.toInt - s.bp.toInt < n then .error (.insufficientOperands n) else .ok ()

/-- `Room(k)`, the capacity check (R65). -/
def room (s : State) (k : Int) : Except FatalError Unit :=
  if s.sp.toInt + k > s.cfg.maxStackSize then .error .stackOverflow else .ok ()

/-- `CheckAddr(ea, lim)`, the window check (R62, R63). -/
def checkAddr (ea lim : Int) : Except FatalError Unit :=
  if 0 ≤ ea ∧ ea < lim then .ok () else .error (.addressOutOfBounds ea)

/-- `MemRead(a, 1)` (R66), its safety net included. A read changes nothing (R76). -/
def memRead (s : State) (a : Int) : Except FatalError Word :=
  if 0 ≤ a ∧ a < s.cfg.maxStackSize then
    if s.cfg.uninitCheck && !s.isDefined a.toNat then .error (.undefinedRead a)
    else .ok (s.cellWord a.toNat)
  else .error (.addressOutOfBounds a)

/-- `MemWrite(a, 1, v)` (R67). The caller has established that the cell exists; the safety net is that of
R66 (DEDUCED, safe, notes/assumptions/7.md). -/
def memWrite (s : State) (a : Int) (v : Word) : Except FatalError State :=
  if 0 ≤ a ∧ a < s.cfg.maxStackSize then .ok (s.setCell a.toNat v)
  else .error (.addressOutOfBounds a)

/-- `Push(v)` (R68), used after `Room(1)`. -/
def push (s : State) (v : Word) : Except FatalError State :=
  (memWrite s s.sp.toInt v).bind fun t => .ok (t.setSp (s.sp.toInt + 1))

/-- `Pop()` (R69), used after `Require`: the word, and the state with sp lowered. The popped cell keeps its
value and its defined bit. -/
def pop (s : State) : Except FatalError (Word × State) :=
  (memRead s (s.sp.toInt - 1)).bind fun v => .ok (v, s.setSp (s.sp.toInt - 1))

/-! ### The output channel -/

/-- Whether the host accepts the event offered now (`out_ready`, R44). -/
def OutReady.now (r : OutReady) : Bool := r.samples.headD r.level

/-- The input after one sample. -/
def OutReady.later (r : OutReady) : OutReady := { r with samples := r.samples.tail }

/-- The event is appended to OUT in the cycle the host accepts it (R79). -/
def State.accept (s : State) (e : OutEvent) : State :=
  { s with out := s.out ++ [e], offer := none, ready := s.ready.later }

/-- The event stays offered: "Waiting changes no architectural state" (R241). The printing instruction
has not completed, so pc stays and the next step offers the same event (DESIGN CHOICE, safe,
notes/assumptions/6.md). -/
def State.wait (s : State) (e : OutEvent) : State :=
  { s with offer := some e, ready := s.ready.later }

/-- `Emit(kind, v)` (R79): in the cycle with `out_ready = 1` the instruction completes, "together with all
its other writes" `done`; in any other it waits. -/
def emit (s : State) (e : OutEvent) (done : State → State) : State :=
  if s.ready.now then done (s.accept e) else s.wait e

/-! ### The front end of a step (R203) -/

/-- The fetch (R73): the whole slot IMEM[pc]. -/
def fetch (s : State) : Option Slot :=
  if 0 ≤ s.pc.toInt then s.imem[s.pc.toInt.toNat]? else none

/-- Dispatch of the fetched slot (R207): an op outside the map is UnknownOpcode. The first case is not
reached: the pc check has put pc inside the program (DEDUCED, safe, notes/assumptions/7.md). -/
def dispatch (s : State) : Host.Outcome State Fault Refusal ⊕ Instr :=
  match fetch s with
  | none => .inl (.next (s.raise (.programCounterOutOfBounds s.pc.toInt)))
  | some sl =>
    match decode sl with
    | .error (.unknownOpcode op) => .inl (.next (s.raise (.unknownOpcode op)))
    | .ok i => .inr i

/-- Everything of a step before an instruction's own rule: no step while `rst = 1` (R230) or HALTED (R203);
then, in the order of R203, the frame check (R205),
the normal end at pc = N, the pc bounds (R206), the fetch (R73) and dispatch (R207). It answers
the outcome of a step that ends there, or the instruction to execute. -/
def frontEnd (s : State) : Host.Outcome State Fault Refusal ⊕ Instr :=
  if s.rst then .inl (.fault .heldInReset)
  else if s.run = .halted then .inl (.fault .halted)
  else if ¬ FrameOK s then .inl (.next (s.raise (.frameInvariantViolation .invariant)))
  else if s.pc.toInt = s.progLen then .inl (.next (s.haltWith .none))
  else if s.pc.toInt < 0 ∨ s.pc.toInt > s.progLen then
    .inl (.next (s.raise (.programCounterOutOfBounds s.pc.toInt)))
  else dispatch s

/-- The program with `sl` at slot `k`; slots below `k` that do not exist yet are filled with `sl`
(DESIGN CHOICE, notes/assumptions/3.md). -/
def placeSlot (prog : List Slot) (k : Nat) (sl : Slot) : List Slot :=
  prog.take k ++ List.replicate (k - prog.length) sl ++ sl :: prog.drop (k + 1)

end Sys2Proof.Machine
end

