-- ==== Sys2Proof/Machine/Operands.lean ====
section
/-! DEFINITION. Where an instruction's operands lie: the addressing modes of 20_memory.md R71. Addresses
are exact integers, with no wrap (R70). -/

namespace Sys2Proof.Machine

/-- The top of stack, cell sp - 1 (R71 (a)). -/
def State.topAddr (s : State) : Int := s.sp.toInt - 1

/-- The cell below the top, sp - 2 (R71 (a)). -/
def State.belowTopAddr (s : State) : Int := s.sp.toInt - 2

/-- The effective address `ea = bp + off` (R70): frame-relative immediate for LOAD and STORE (R71 (b)),
frame-relative indirect for STORESTACK (R71 (c)). -/
def State.frameAddr (s : State) (off : Word) : Int := s.bp.toInt + off.toInt

/-- The saved link of the current frame, cell bp - 1 (R40, R71 (d)). -/
def State.linkAddr (s : State) : Int := s.bp.toInt - 1

/-- The target of a relative jump and the return address of FRAME: `wrap(pc + delta)`, from the
instruction's own pc (42_control.md R149). -/
def State.pcPlus (s : State) (delta : Word) : Word := wrap (s.pc.toInt + delta.toInt)

/-- `Require(1)`, then the top word (R64, R66). -/
def top (s : State) : Except FatalError Word :=
  (require s 1).bind fun _ => memRead s s.topAddr

/-- `Room(1)`, then `Push(v)`: the shape of every instruction that pushes (R65, R68). -/
def roomPush (s : State) (v : Word) : Except FatalError State :=
  (room s 1).bind fun _ => push s v

end Sys2Proof.Machine
end

