-- ==== Sys2Proof/Machine/Alu.lean ====
section
/-! DEFINITION. The stack ALU: 40_alu.md R101 to R123. -/

namespace Sys2Proof.Machine

/-- The common pseudocode of R101: left operand in cell sp - 2, right operand in cell sp - 1, the result
in the cell of the left one, sp one lower. Require comes before any read (R102). -/
def binaryAlu (s : State) (f : Word → Word → Except FatalError Word) : Except FatalError State :=
  (require s 2).bind fun _ =>
  (memRead s s.belowTopAddr).bind fun a =>
  (memRead s s.topAddr).bind fun b =>
  (f a b).bind fun r =>
  (memWrite s s.belowTopAddr r).bind fun t =>
  .ok (t.setSp (s.sp.toInt - 1)).advance

/-- `tdiv` of R8: the quotient truncated toward zero. -/
def tdiv (a b : Int) : Int := Int.tdiv a b

/-- `trem` of R8: `a - b * tdiv(a, b)`. -/
def trem (a b : Int) : Int := a - b * tdiv a b

/-- R113's function: a divisor of 0 raises; the one quotient that is no word, INT_MIN / -1, falls under
the overflow rule. -/
def divide (c : Config) (a b : Word) : Except FatalError Word :=
  if b = 0 then .error (.arithmeticError .divisionByZero) else narrow c (tdiv a.toInt b.toInt)

/-- R114's function; `trem` is always a word. -/
def remainder (a b : Word) : Except FatalError Word :=
  if b = 0 then .error (.arithmeticError .divisionByZero) else .ok (wrap (trem a.toInt b.toInt))

/-- A comparison or a boolean function, which never raises. -/
def compareAlu (s : State) (f : Word → Word → Bool) : Except FatalError State :=
  binaryAlu s fun a b => .ok (boolWord (f a b))

/-- ADD (R110, overflow R103). -/
def execAdd (s : State) : Host.Outcome State Fault Refusal :=
  commit s (binaryAlu s fun a b => narrow s.cfg (a.toInt + b.toInt))

/-- SUB (R111, overflow R103): left minus right. -/
def execSub (s : State) : Host.Outcome State Fault Refusal :=
  commit s (binaryAlu s fun a b => narrow s.cfg (a.toInt - b.toInt))

/-- MUL (R112, overflow R103). -/
def execMul (s : State) : Host.Outcome State Fault Refusal :=
  commit s (binaryAlu s fun a b => narrow s.cfg (a.toInt * b.toInt))

/-- DIV (R113). -/
def execDiv (s : State) : Host.Outcome State Fault Refusal :=
  commit s (binaryAlu s (divide s.cfg))

/-- MOD (R114). -/
def execMod (s : State) : Host.Outcome State Fault Refusal :=
  commit s (binaryAlu s remainder)

/-- LESS (R115): signed, as all six comparisons. -/
def execLess (s : State) : Host.Outcome State Fault Refusal :=
  commit s (compareAlu s fun a b => decide (a.toInt < b.toInt))

/-- LEQ (R116). -/
def execLeq (s : State) : Host.Outcome State Fault Refusal :=
  commit s (compareAlu s fun a b => decide (a.toInt ≤ b.toInt))

/-- EQ (R117). -/
def execEq (s : State) : Host.Outcome State Fault Refusal :=
  commit s (compareAlu s fun a b => decide (a = b))

/-- NEQ (R118). -/
def execNeq (s : State) : Host.Outcome State Fault Refusal :=
  commit s (compareAlu s fun a b => decide (a ≠ b))

/-- GEQ (R119). -/
def execGeq (s : State) : Host.Outcome State Fault Refusal :=
  commit s (compareAlu s fun a b => decide (b.toInt ≤ a.toInt))

/-- GREATER (R120). -/
def execGreater (s : State) : Host.Outcome State Fault Refusal :=
  commit s (compareAlu s fun a b => decide (b.toInt < a.toInt))

/-- AND (R121): logical, both operands read. -/
def execAnd (s : State) : Host.Outcome State Fault Refusal :=
  commit s (compareAlu s fun a b => truthy a && truthy b)

/-- OR (R122): logical, both operands read. -/
def execOr (s : State) : Host.Outcome State Fault Refusal :=
  commit s (compareAlu s fun a b => truthy a || truthy b)

/-- NOT (R123): in place, sp unchanged. -/
def execNot (s : State) : Host.Outcome State Fault Refusal :=
  commit s <| (top s).bind fun a =>
    (memWrite s s.topAddr (boolWord (!truthy a))).bind fun t => .ok t.advance

end Sys2Proof.Machine
end

