-- ==== Sys2Proof/Machine/Control.lean ====
section
/-! DEFINITION. Jumps: 42_control.md R149 to R153. No jump checks its target; the next step does (R206). -/

namespace Sys2Proof.Machine

/-- Pop a condition, always; jump by `delta` if `taken` says so, else fall through (R152, R153). -/
def jumpWhen (taken : Word → Bool) (delta : Word) (s : State) : Except FatalError State :=
  (top s).bind fun c =>
  .ok (if taken c then (s.setSp (s.sp.toInt - 1)).setPc (s.pcPlus delta)
    else (s.setSp (s.sp.toInt - 1)).advance)

/-- GOTO target (R150): absolute. -/
def execGoto (target : Word) (s : State) : Host.Outcome State Fault Refusal :=
  commit s (.ok (s.setPc target))

/-- JUMP delta (R151): relative to the JUMP's own index. -/
def execJump (delta : Word) (s : State) : Host.Outcome State Fault Refusal :=
  commit s (.ok (s.setPc (s.pcPlus delta)))

/-- JMPT delta (R152). -/
def execJmpt (delta : Word) (s : State) : Host.Outcome State Fault Refusal :=
  commit s (jumpWhen truthy delta s)

/-- JMPF delta (R153). -/
def execJmpf (delta : Word) (s : State) : Host.Outcome State Fault Refusal :=
  commit s (jumpWhen (fun c => !truthy c) delta s)

end Sys2Proof.Machine
end

