-- ==== Sys2Proof/Machine/Frames.lean ====
section
/-! DEFINITION. Call frames and return: 43_frames.md R160 to R166. -/

namespace Sys2Proof.Machine

/-- FRAME delta (R160): push the return address, which is not checked. -/
def execFrame (delta : Word) (s : State) : Host.Outcome State Fault Refusal :=
  commit s <| (roomPush s (s.pcPlus delta)).bind fun t => .ok t.advance

/-- sp after UNFRAME (R161): unchanged in reading A, one lower in reading B (UNFRAME_POPS). -/
def unframeSp (s : State) : Int := if s.cfg.unframePops then s.sp.toInt - 1 else s.sp.toInt

/-- UNFRAME (R161): pc takes the return address on top, its cell takes rv, and rv becomes 0. -/
def execUnframe (s : State) : Host.Outcome State Fault Refusal :=
  commit s <| (top s).bind fun r =>
    (memWrite s s.topAddr s.rv).bind fun t =>
    .ok (((t.setRv 0).setSp (unframeSp s)).setPc r)

/-- PUSHSTACK (R162): save bp in a new cell; the new frame begins above it. -/
def execPushstack (s : State) : Host.Outcome State Fault Refusal :=
  commit s <| (roomPush s s.bp).bind fun t => .ok (t.setBp t.sp).advance

/-- POPSTACK's check of the saved link (R165): following it must not break FrameOK. -/
def checkLink (s : State) (link : Word) : Except FatalError Unit :=
  if 0 ≤ link.toInt ∧ link.toInt ≤ s.linkAddr then .ok ()
  else .error (.frameInvariantViolation .badSavedBp)

/-- POPSTACK (R165): sp and bp return to what they were before the frame was opened. -/
def execPopstack (s : State) : Host.Outcome State Fault Refusal :=
  commit s <|
    if s.bp.toInt < 1 then .error (.frameInvariantViolation .noEnclosingFrame)
    else
      (memRead s s.linkAddr).bind fun link =>
      (checkLink s link).bind fun _ =>
      .ok ((s.setSp s.linkAddr).setBp link).advance

/-- RETURN (R166): the top word moves to rv; control does not move. -/
def execReturn (s : State) : Host.Outcome State Fault Refusal :=
  commit s <| (top s).bind fun v => .ok ((s.setSp (s.sp.toInt - 1)).setRv v).advance

end Sys2Proof.Machine
end

