-- ==== Sys2Proof/Machine/Io.lean ====
section
/-! DEFINITION. Output instructions: 44_io.md R180 and R181. The checks come first: no event is offered
when one fails. -/

namespace Sys2Proof.Machine

/-- Pop the top word and emit it as an event of the given kind (R180, R181). -/
def printTop (kind : OutKind) (s : State) : Except FatalError State :=
  (top s).bind fun v =>
  .ok (emit s { kind := kind, value := v } fun t => (t.setSp (s.sp.toInt - 1)).advance)

/-- PRINTC (R180). -/
def execPrintc (s : State) : Host.Outcome State Fault Refusal := commit s (printTop .char s)

/-- PRINTINT (R181). -/
def execPrintint (s : State) : Host.Outcome State Fault Refusal := commit s (printTop .int s)

/-! ### What the channel shows while a step runs -/

/-- The kind of event an instruction prints, if it prints (R37). -/
def printKind : Instr → Option OutKind
  | .printc => some .char
  | .printint => some .int
  | .add | .sub | .mul | .div | .mod => none
  | .less | .leq | .eq | .neq | .geq | .greater => none
  | .and | .or | .not => none
  | .push _ | .pop | .load _ | .store _ | .alloc _ => none
  | .storesp | .storespoffset | .storestack => none
  | .goto _ | .jump _ | .jmpt _ | .jmpf _ => none
  | .frame _ | .unframe | .pushstack | .popstack | .ret => none

/-- The event the step from this state offers at the interface, accepted or not (R79): that of the print it
dispatches, once the print's checks have passed. Held in reset or HALTED the core offers none (R230,
R226). The field `offer` holds the same event over the steps in which it waits. -/
def State.offering (s : State) : Option OutEvent :=
  match frontEnd s with
  | .inl _ => none
  | .inr i =>
    match printKind i, top s with
    | some kind, .ok v => some { kind := kind, value := v }
    | some _, .error _ => none
    | none, _ => none

end Sys2Proof.Machine
end

