-- ==== Sys2Proof/Machine/Stack.lean ====
section
/-! DEFINITION. Stack manipulation and memory access: 41_stack.md R129 to R137. -/

namespace Sys2Proof.Machine

/-- PUSH imm (R130). -/
def execPush (imm : Word) (s : State) : Host.Outcome State Fault Refusal :=
  commit s <| (roomPush s imm).bind fun t => .ok t.advance

/-- POP (R131): the cell is not read, so an undefined cell may be popped. -/
def execPop (s : State) : Host.Outcome State Fault Refusal :=
  commit s <| (require s 1).bind fun _ => .ok (s.setSp (s.sp.toInt - 1)).advance

/-- LOAD offset (R132): Room, then the window below sp, then the read. -/
def execLoad (offset : Word) (s : State) : Host.Outcome State Fault Refusal :=
  commit s <|
    (room s 1).bind fun _ =>
    (checkAddr (s.frameAddr offset) s.sp.toInt).bind fun _ =>
    (memRead s (s.frameAddr offset)).bind fun v =>
    (push s v).bind fun t => .ok t.advance

/-- STORE offset (R133): the window is that after the pop. -/
def execStore (offset : Word) (s : State) : Host.Outcome State Fault Refusal :=
  commit s <|
    (require s 1).bind fun _ =>
    (checkAddr (s.frameAddr offset) (s.sp.toInt - 1)).bind fun _ =>
    (memRead s s.topAddr).bind fun v =>
    (memWrite s (s.frameAddr offset) v).bind fun t =>
    .ok (t.setSp (s.sp.toInt - 1)).advance

/-- The checks of ALLOC (R134): Room for a positive count, Require for a negative one. R134 contradicts itself
where sp = 0, MAX_STACK_SIZE = INT_MAX and n = INT_MAX: its pseudocode lets ALLOC succeed, a corner case raises
StackOverflow "whatever sp is". The model follows the pseudocode (DESIGN CHOICE, unsafe,
notes/assumptions/18.md). -/
def allocCheck (s : State) (n : Int) : Except FatalError Unit :=
  if n > 0 then room s n else if n < 0 then require s (-n) else .ok ()

/-- The cells ALLOC reserves (R134) are undefined, their contents unchanged; a count of 0 or less changes
no cell. -/
def allocCells (s : State) (n : Int) : State :=
  if n > 0 then s.undefineCells s.sp.toInt (s.sp.toInt + n) else s

/-- ALLOC n (R134). -/
def execAlloc (n : Word) (s : State) : Host.Outcome State Fault Refusal :=
  commit s <|
    (allocCheck s n.toInt).bind fun _ =>
    .ok ((allocCells s n.toInt).setSp (s.sp.toInt + n.toInt)).advance

/-- STORESP (R135): the sp before the push. -/
def execStoresp (s : State) : Host.Outcome State Fault Refusal :=
  commit s <| (roomPush s s.sp).bind fun t => .ok t.advance

/-- STORESPOFFSET (R136): sp - bp, both before the push. -/
def execStorespoffset (s : State) : Host.Outcome State Fault Refusal :=
  commit s <| (roomPush s (wrap (s.sp.toInt - s.bp.toInt))).bind fun t => .ok t.advance

/-- STORESTACK (R137): the address is the top word, the value lies below it, the window is that after
both pops. -/
def execStorestack (s : State) : Host.Outcome State Fault Refusal :=
  commit s <|
    (require s 2).bind fun _ =>
    (memRead s s.topAddr).bind fun addr =>
    (checkAddr (s.frameAddr addr) (s.sp.toInt - 2)).bind fun _ =>
    (memRead s s.belowTopAddr).bind fun v =>
    (memWrite s (s.frameAddr addr) v).bind fun t =>
    .ok (t.setSp (s.sp.toInt - 2)).advance

end Sys2Proof.Machine
end

