-- ==== Sys2Proof/Machine/Dispatch.lean ====
section
/-! DEFINITION. The meaning of every instruction, one arm for each constructor of Instr. -/

namespace Sys2Proof.Machine

/-- Execute one instruction at a state: the rule of its row in 30_encoding.md R95. -/
def exec (i : Instr) (s : State) : Host.Outcome State Fault Refusal :=
  match i with
  -- 40_alu.md
  | .add => Sys2Proof.Machine.execAdd s
  | .sub => Sys2Proof.Machine.execSub s
  | .mul => Sys2Proof.Machine.execMul s
  | .div => Sys2Proof.Machine.execDiv s
  | .mod => Sys2Proof.Machine.execMod s
  | .less => Sys2Proof.Machine.execLess s
  | .leq => Sys2Proof.Machine.execLeq s
  | .eq => Sys2Proof.Machine.execEq s
  | .neq => Sys2Proof.Machine.execNeq s
  | .geq => Sys2Proof.Machine.execGeq s
  | .greater => Sys2Proof.Machine.execGreater s
  | .and => Sys2Proof.Machine.execAnd s
  | .or => Sys2Proof.Machine.execOr s
  | .not => Sys2Proof.Machine.execNot s
  -- 41_stack.md
  | .push imm => Sys2Proof.Machine.execPush imm s
  | .pop => Sys2Proof.Machine.execPop s
  | .load offset => Sys2Proof.Machine.execLoad offset s
  | .store offset => Sys2Proof.Machine.execStore offset s
  | .alloc n => Sys2Proof.Machine.execAlloc n s
  -- 43_frames.md
  | .frame delta => Sys2Proof.Machine.execFrame delta s
  | .unframe => Sys2Proof.Machine.execUnframe s
  -- 41_stack.md
  | .storesp => Sys2Proof.Machine.execStoresp s
  | .storespoffset => Sys2Proof.Machine.execStorespoffset s
  | .storestack => Sys2Proof.Machine.execStorestack s
  -- 42_control.md
  | .goto target => Sys2Proof.Machine.execGoto target s
  | .jump delta => Sys2Proof.Machine.execJump delta s
  | .jmpt delta => Sys2Proof.Machine.execJmpt delta s
  | .jmpf delta => Sys2Proof.Machine.execJmpf delta s
  -- 44_io.md
  | .printc => Sys2Proof.Machine.execPrintc s
  | .printint => Sys2Proof.Machine.execPrintint s
  -- 43_frames.md
  | .pushstack => Sys2Proof.Machine.execPushstack s
  | .popstack => Sys2Proof.Machine.execPopstack s
  | .ret => Sys2Proof.Machine.execReturn s

end Sys2Proof.Machine
end

