-- ==== Sys2Proof/Machine/Step.lean ====
section
/-! DEFINITION. One step of the machine (60_exceptions.md R203), and where it fetches. -/

namespace Sys2Proof.Machine

/-- `Step()` of R203: the pre-dispatch checks, the fetch and the dispatch, then the rule of the
instruction. -/
def step (s : State) : Host.Outcome State Fault Refusal :=
  match frontEnd s with
  | .inl outcome => outcome
  | .inr i => exec i s

/-- `s` with the instruction word `w` in the slot the next step fetches, slot pc of the program
(0 ≤ pc). It stands for the loader, which alone writes IMEM (R43; DESIGN CHOICE,
notes/assumptions/3.md). -/
def State.withFetchWord (s : State) (nbits w : Nat) : State :=
  { s with imem := placeSlot s.imem s.pc.toInt.toNat (tableSlot nbits w) }

end Sys2Proof.Machine
end

