-- ==== Sys2Proof/Machine/Loader.lean ====
section
/-! DEFINITION. From a source text to the slots of the instruction memory: tokens (30_encoding.md R91) and
the loader's loop (R93). The loader is a host-side function outside the core (90_conflicts.md C13). -/

namespace Sys2Proof.Machine

/-- The causes of LoadError (R93, R200, R215). -/
inductive LoadError where
  | badToken
  | unknownOpcodeTag
  | unexpectedEndOfInput
  | programTooLong
  | sourceUnavailable
deriving DecidableEq, Repr

/-- A source text. -/
abbrev Text := List Byte

/-- The whitespace bytes of R91: 0x20 and 0x09 to 0x0D. -/
def isSpace (c : Byte) : Bool := c = 0x20 || (decide (0x09 ≤ c.toNat) && decide (c.toNat ≤ 0x0D))

/-- The maximal runs of bytes other than whitespace (R91); `run` is the run read so far. -/
def tokensFrom (run : Text) : Text → List Text
  | [] => if run = [] then [] else [run]
  | c :: rest =>
    if isSpace c then (if run = [] then tokensFrom [] rest else run :: tokensFrom [] rest)
    else tokensFrom (run ++ [c]) rest

/-- The tokens of a text (R91). -/
def tokens (text : Text) : List Text := tokensFrom [] text

/-- A byte `0` to `9`. -/
def isDigit (c : Byte) : Bool := decide (48 ≤ c.toNat) && decide (c.toNat ≤ 57)

/-- The number that digits spell after a number `n` read so far. -/
def digitsValue (n : Nat) : Text → Nat
  | [] => n
  | c :: rest => digitsValue (10 * n + (c.toNat - 48)) rest

/-- The value of `[0-9]+` (R91). -/
def parseDigits (t : Text) : Option Int :=
  if t ≠ [] ∧ t.all isDigit = true then some (digitsValue 0 t) else none

/-- The value of `[+-]?[0-9]+` (R91). -/
def parseInteger : Text → Option Int
  | [] => none
  | c :: rest =>
    if c = 0x2D then (parseDigits rest).map fun x => -x
    else if c = 0x2B then parseDigits rest
    else parseDigits (c :: rest)

/-- A token is well formed when it matches the pattern and its value is a word (R91). -/
def parseToken (t : Text) : Except LoadError Int :=
  match parseInteger t with
  | some x => if IsWord x then .ok x else .error .badToken
  | none => .error .badToken

/-- The arity of a tag value of the token stream; a value outside 0 to 32 has none (R93). -/
def tagArity (t : Int) : Option Nat := if 0 ≤ t then opcodeArity t.toNat else none

/-- The slot the loader writes: `b` is 0, and `a` is 0 for an arity-0 opcode (R93). -/
def loadedSlot (tag operand : Int) : Slot :=
  { op := BitVec.ofInt 8 tag, a := wrap operand, b := 0 }

/-- The loop of R93 over tokens; `room` is the number of slots still free. -/
def loadTokens (room : Nat) : List Text → Except LoadError (List Slot)
  | [] => .ok []
  | t :: rest =>
    match parseToken t with
    | .error e => .error e
    | .ok tag =>
      match tagArity tag, room with
      | none, _ => .error .unknownOpcodeTag
      | some _, 0 => .error .programTooLong
      | some 0, room + 1 => (loadTokens room rest).map fun prog => loadedSlot tag 0 :: prog
      | some _, room + 1 =>
        match rest with
        | [] => .error .unexpectedEndOfInput
        | o :: rest =>
          match parseToken o with
          | .error e => .error e
          | .ok operand => (loadTokens room rest).map fun prog => loadedSlot tag operand :: prog

/-- The loader over a source text, for an instruction memory of `depth` slots (R93). -/
def load (depth : Nat) (text : Text) : Except LoadError (List Slot) := loadTokens depth (tokens text)

/-- The loader over a source that may be missing or unreadable (R215). -/
def loadSource (depth : Nat) (source : Option Text) : Except LoadError (List Slot) :=
  match source with
  | none => .error .sourceUnavailable
  | some text => load depth text

end Sys2Proof.Machine
end

