-- ==== Sys2Proof/Machine/Render.lean ====
section
/-! DEFINITION. The text an output event stands for: 20_memory.md R80 and R81. -/

namespace Sys2Proof.Machine

/-- The ASCII byte of a decimal digit (R81). -/
def digitByte (d : Nat) : Byte := BitVec.ofNat 8 (48 + d)

/-- The decimal digits of `n`, no leading zeros, a single `0` for 0 (R81); `fuel` bounds their number. -/
def decimalDigits : Nat → Nat → List Byte
  | 0, _ => []
  | fuel + 1, n =>
    if n < 10 then [digitByte n] else decimalDigits fuel (n / 10) ++ [digitByte (n % 10)]

/-- The decimal representation of a signed value (R81). Ten digits hold every word. -/
def decimal (x : Int) : List Byte :=
  if x < 0 then 0x2D :: decimalDigits 10 x.natAbs else decimalDigits 10 x.natAbs

/-- CHAR is the byte `v[7:0]` (R80); INT is the decimal text of the signed value (R81). -/
def renderEvent (e : OutEvent) : List Byte :=
  match e.kind with
  | .char => [e.value.extractLsb' 0 8]
  | .int => decimal e.value.toInt

/-- The text of OUT: the events' texts in execution order, nothing between them (R81, R235). -/
def renderOut (out : List OutEvent) : List Byte := out.flatMap renderEvent

end Sys2Proof.Machine
end

