-- ==== Sys2Proof/Machine/Assembler.lean ====
section
/-! DEFINITION. The assembly syntax of 30_encoding.md R100: a text of mnemonics to a token stream (R90). -/

namespace Sys2Proof.Machine

/-- The bytes of an ASCII name. -/
def ascii (name : List Char) : Text := name.map fun c => BitVec.ofNat 8 c.toNat

/-- Mnemonics of 40_alu.md with their ordinals (R95). -/
def aluMnemonics : List (Text × Nat) :=
  [(ascii ['A', 'D', 'D'], 0), (ascii ['S', 'U', 'B'], 1), (ascii ['M', 'U', 'L'], 2),
   (ascii ['D', 'I', 'V'], 3), (ascii ['M', 'O', 'D'], 4), (ascii ['L', 'E', 'S', 'S'], 5),
   (ascii ['L', 'E', 'Q'], 6), (ascii ['E', 'Q'], 7), (ascii ['N', 'E', 'Q'], 8), (ascii ['G', 'E', 'Q'], 9),
   (ascii ['G', 'R', 'E', 'A', 'T', 'E', 'R'], 10), (ascii ['A', 'N', 'D'], 11), (ascii ['O', 'R'], 12),
   (ascii ['N', 'O', 'T'], 13)]

/-- Mnemonics of 41_stack.md with their ordinals (R95). -/
def stackMnemonics : List (Text × Nat) :=
  [(ascii ['P', 'U', 'S', 'H'], 14), (ascii ['P', 'O', 'P'], 15), (ascii ['L', 'O', 'A', 'D'], 16),
   (ascii ['S', 'T', 'O', 'R', 'E'], 17), (ascii ['A', 'L', 'L', 'O', 'C'], 18),
   (ascii ['S', 'T', 'O', 'R', 'E', 'S', 'P'], 21),
   (ascii ['S', 'T', 'O', 'R', 'E', 'S', 'P', 'O', 'F', 'F', 'S', 'E', 'T'], 22),
   (ascii ['S', 'T', 'O', 'R', 'E', 'S', 'T', 'A', 'C', 'K'], 23)]

/-- Mnemonics of 42_control.md, 43_frames.md and 44_io.md with their ordinals (R95). -/
def controlMnemonics : List (Text × Nat) :=
  [(ascii ['F', 'R', 'A', 'M', 'E'], 19), (ascii ['U', 'N', 'F', 'R', 'A', 'M', 'E'], 20),
   (ascii ['G', 'O', 'T', 'O'], 24), (ascii ['J', 'U', 'M', 'P'], 25), (ascii ['J', 'M', 'P', 'T'], 26),
   (ascii ['J', 'M', 'P', 'F'], 27), (ascii ['P', 'R', 'I', 'N', 'T', 'C'], 28),
   (ascii ['P', 'R', 'I', 'N', 'T', 'I', 'N', 'T'], 29),
   (ascii ['P', 'U', 'S', 'H', 'S', 'T', 'A', 'C', 'K'], 30),
   (ascii ['P', 'O', 'P', 'S', 'T', 'A', 'C', 'K'], 31), (ascii ['R', 'E', 'T', 'U', 'R', 'N'], 32)]

/-- The aliases of R100 (90_conflicts.md C1). -/
def aliasMnemonics : List (Text × Nat) :=
  [(ascii ['A', 'D', 'D', 'I'], 0), (ascii ['S', 'U', 'B', 'I'], 1), (ascii ['M', 'U', 'L', 'I'], 2),
   (ascii ['D', 'I', 'V', 'I'], 3), (ascii ['M', 'O', 'D', 'I'], 4)]

/-- The ordinal a mnemonic or an alias names. -/
def mnemonicOrdinal (name : Text) : Option Nat :=
  (aluMnemonics ++ stackMnemonics ++ controlMnemonics ++ aliasMnemonics).lookup name

/-- The lines of a text, split at LF; `line` is the line read so far. -/
def linesFrom (line : Text) : Text → List Text
  | [] => [line]
  | c :: rest => if c = 0x0A then line :: linesFrom [] rest else linesFrom (line ++ [c]) rest

/-- The integers of one line: none for a line without an instruction; `MNEMONIC` for an opcode of arity 0
and `MNEMONIC operand` for one of arity 1. A `;` starts a comment. `none` for any other line. -/
def assembleLine (line : Text) : Option (List Int) :=
  match tokens (line.takeWhile fun c => c != 0x3B) with
  | [] => some []
  | [name] =>
    match mnemonicOrdinal name with
    | some n => if opcodeArity n = some 0 then some [(n : Int)] else none
    | none => none
  | [name, operand] =>
    match mnemonicOrdinal name, parseToken operand with
    | some n, .ok x => if opcodeArity n = some 1 then some [(n : Int), x] else none
    | _, _ => none
  | _ => none

/-- The integers of the assembled lines, in order; `none` if a line is no instruction. -/
def assembleLines : List Text → Option (List Int)
  | [] => some []
  | line :: rest =>
    match assembleLine line, assembleLines rest with
    | some xs, some ys => some (xs ++ ys)
    | _, _ => none

/-- The token stream of integers as text: each integer in decimal, a space after it (R90). -/
def tokenText : List Int → Text
  | [] => []
  | x :: rest => decimal x ++ 0x20 :: tokenText rest

/-- Assembling: each mnemonic replaced by its ordinal, written as the token stream of R90 (R100). -/
def assemble (source : Text) : Option Text := (assembleLines (linesFrom [] source)).map tokenText

/-- The token stream of a program (R90). -/
def programText (prog : List Instr) : Text := tokenText (prog.flatMap Instr.tokens)

end Sys2Proof.Machine
end

