-- ==== Sys2Proof/Machine/HostPort.lean ====
section
/-! DEFINITION. What the host sees of the core and may do to it: the signals of 10_state.md R44, STATUS
(R42), reset (70_reset_and_hazards.md R230), and the boot sequence (R233, R240). -/

namespace Sys2Proof.Machine

/-- STATUS (R42): HALTED in bit 0, ERR in bits 7:4, every other bit reads 0. -/
def statusWord (s : State) : Word :=
  (0 : BitVec 24) ++ s.err.bits ++ (0 : BitVec 3) ++ (if s.run = .halted then 1 else 0 : BitVec 1)

/-- The `out_kind` signal: 0 = CHAR, 1 = INT (R44). -/
def OutKind.bit : OutKind → BitVec 1
  | .char => 0
  | .int => 1

/-- The core's output signals (R44). `event` is what `out_kind` and `out_data` carry while `out_valid` is 1.
`imemAddr` is `none` in a step that does not fetch: R44 gives `imem_addr` a value "at fetch" only, and the
model gives it none elsewhere (DESIGN CHOICE, safe, notes/assumptions/16.md). -/
structure Ports where
  imemAddr : Option Word
  outValid : Bool
  event : Option (BitVec 1 × Word)
  status : Word
  obsPc : Word
  obsSp : Word
  obsBp : Word
  obsRv : Word
deriving DecidableEq, Repr

/-- The step from this state fetches (R203): the core runs, the checks before the fetch pass, and the
instruction at pc is not a print that waits already, which is not fetched again. -/
abbrev State.fetches (s : State) : Prop :=
  s.rst = false ∧ s.run = .running ∧ FrameOK s ∧ 0 ≤ s.pc.toInt ∧ s.pc.toInt < s.progLen ∧ s.offer = none

/-- The signals the core drives while the step from this state runs (R44): `imem_addr` is pc where that step
fetches, and the model says nothing of it in any other, HALTED (R226), held in reset (R230) or waiting
(R79); `out_valid` is 1 in every step that offers an event, the one that accepts it at once included. That
a state's signals are those of the step that leaves it is the model's form (DESIGN CHOICE, safe,
notes/assumptions/16.md). -/
def State.ports (s : State) : Ports :=
  { imemAddr := if s.fetches then some s.pc else none
    outValid := s.offering.isSome
    event := s.offering.map fun e => (e.kind.bit, e.value)
    status := statusWord s
    obsPc := s.pc, obsSp := s.sp, obsBp := s.bp, obsRv := s.rv }

/-- The host asserts `rst`, from any state: no step while it is 1, and `out_valid = 0`, so that an event
not yet accepted is dropped (R230). -/
def State.assertReset (s : State) : State := { s with rst := true, offer := none }

/-- The host releases `rst`: the state becomes that of R46. The loaded program, the parameters and the
host's own input are not the core's to reset; the contents of S are unspecified anew (R231), a draw
of the free value. `rst` is a level that changes between steps (DESIGN CHOICE, safe, notes/assumptions/9.md). -/
def State.releaseReset (s : State) : State :=
  { State.reset with
    imem := s.imem, cfg := s.cfg, ready := s.ready
    resetDraw := s.nextDraw, nextDraw := s.nextDraw + 1 }

/-- Reset, asserted and released (R230): the only way out of HALTED (R211). -/
def State.hostReset (s : State) : State := s.assertReset.releaseReset

/-- The host writes IMEM and drives prog_len while `rst = 1` (R240), with slots the loader need not have
made (R98, R207) and no more of them than IMEM_DEPTH (R5). At any other time the behaviour is unspecified
and the model gives it no meaning (R74, R240; U7; safe, notes/assumptions/12.md). -/
def State.writeImem (s : State) (prog : List Slot) : Option State :=
  if s.rst = true ∧ prog.length ≤ s.cfg.imemDepth then some { s with imem := prog } else none

/-- The boot sequence of R233: assert `rst`, run the loader, and on success release it; on LoadError keep
it asserted and report the error (R215). After a LoadError the slots stay those of the earlier program, and
a host that broke its duty and released `rst` would run that program; the spec gives such a run no meaning
(DESIGN CHOICE, unsafe for a claim about such a run, notes/assumptions/17.md). -/
def State.boot (s : State) (source : Option Text) : State × Option LoadError :=
  match loadSource s.cfg.imemDepth source with
  | .error e => (s.assertReset, some e)
  | .ok prog => (({ s.assertReset with imem := prog } : State).releaseReset, none)

end Sys2Proof.Machine
end

