-- ==== Sys2Proof/Safety.lean ====
section
/-! DEFINITION. What counts as a safe state, and the terms in which claims about the machine are made. -/

namespace Sys2Proof.Machine

/-- The core steps: `rst` is released and `run` is RUNNING (R203, R230). -/
abbrev Running (s : State) : Prop := s.rst = false ∧ s.run = .running

/-- Reading cell `a` does not raise UndefinedRead (R66). -/
abbrev Readable (s : State) (a : Int) : Prop := s.cfg.uninitCheck = true → s.isDefined a.toNat = true

/-- The signed word cell `a` holds; a free value where `D[a] = 0`. -/
def valueAt (s : State) (a : Int) : Word := s.cellWord a.toNat

/-- A binary instruction finds its operands: two in the current frame, both readable (R101, R102). -/
abbrev TwoOperands (s : State) : Prop :=
  2 ≤ s.sp.toInt - s.bp.toInt ∧ Readable s (s.sp.toInt - 2) ∧ Readable s (s.sp.toInt - 1)

/-- A one-operand instruction finds its operand: one in the current frame, readable. -/
abbrev OneOperand (s : State) : Prop :=
  1 ≤ s.sp.toInt - s.bp.toInt ∧ Readable s (s.sp.toInt - 1)

/-- There is room for one more cell (R65). -/
abbrev RoomForOne (s : State) : Prop := s.sp.toInt + 1 ≤ s.cfg.maxStackSize

/-- The 13 binary ALU instructions (40_alu.md R101). -/
def binaryInstrs : List Instr :=
  [.add, .sub, .mul, .div, .mod, .less, .leq, .eq, .neq, .geq, .greater, .and, .or]

/-- Memory `m` is the stack memory of `s` with the word `v` written to cell `a`, which is now defined,
and every other cell as it was. -/
def WritesCell (s : State) (m : Memory) (a : Int) (v : Word) : Prop :=
  m.lookup a.toNat = some { word := v, status := .defined } ∧
  ∀ b : Nat, b ≠ a.toNat → m.lookup b = s.mem.lookup b

/-- A binary ALU instruction completes with the result `r` (R101): `r` in the cell of the left operand,
sp one lower, pc one higher, every other register, cell and signal as before. -/
def BinaryResult (i : Instr) (s : State) (r : Word) : Prop :=
  ∃ m, exec i s = .next { s with mem := m, sp := s.sp - 1, pc := s.pc + 1 } ∧
    WritesCell s m (s.sp.toInt - 2) r

/-- An instruction completes by pushing `v` (R68): `v` in cell sp, sp one higher, pc one higher, every
other register, cell and signal as before. -/
def PushResult (i : Instr) (s : State) (v : Word) : Prop :=
  ∃ m, exec i s = .next { s with mem := m, sp := s.sp + 1, pc := s.pc + 1 } ∧
    WritesCell s m s.sp.toInt v

/-- An instruction raises `e` (R201): HALTED with the code of `e`, nothing else changed but that no event
is offered any more, which is the model's reading and not R201's (DEDUCED, notes/assumptions/8.md). -/
abbrev Raises (i : Instr) (s : State) (e : FatalError) : Prop :=
  exec i s = .next { s with run := .halted, err := e.code, offer := none }

/-- Two states that agree on everything but cells a program cannot read: the same registers, signals and
program, and below sp the same defined bits and, where a cell is defined, the same word (R47 (c)). -/
def LiveEqual (s s' : State) : Prop :=
  (∃ m, s' = { s with mem := m }) ∧
  ∀ a : Nat, (a : Int) < s.sp.toInt →
    s'.isDefined a = s.isDefined a ∧ (s.isDefined a = true → s'.cellWord a = s.cellWord a)

/-- The number a run of decimal digits spells (R91). -/
def spelled (digits : Text) : Nat := digits.foldl (fun n c => 10 * n + (c.toNat - 0x30)) 0

/-- A token of the grammar `[+-]?[0-9]+` and the integer it stands for (R91). -/
def TokenDenotes (t : Text) (x : Int) : Prop :=
  ∃ digits : Text, digits ≠ [] ∧ (∀ c ∈ digits, 0x30 ≤ c.toNat ∧ c.toNat ≤ 0x39) ∧
    ((t = digits ∨ t = 0x2B :: digits) ∧ x = spelled digits ∨ t = 0x2D :: digits ∧ x = -spelled digits)

/-- A run of bytes that is one token, but not a well-formed one: outside the grammar, or outside the range
of a word (R91). -/
def BadToken (t : Text) : Prop :=
  t ≠ [] ∧ (∀ c ∈ t, isSpace c = false) ∧ ∀ x, TokenDenotes t x → ¬ IsWord x

/-- Every cell made undefined was made so by a draw below `n`. -/
abbrev Memory.drawsBelow (m : Memory) (n : Nat) : Prop :=
  ∀ p ∈ m, ∀ d, p.2.status = .undefinedSince d → d < n

/-- An offered event is the one the instruction at pc prints, and the core still runs (R79). -/
def OfferPending (s : State) (e : OutEvent) : Prop :=
  Running s ∧ OneOperand s ∧ e.value = valueAt s (s.sp.toInt - 1) ∧
  ((e.kind = .char ∧ frontEnd s = .inr .printc) ∨ (e.kind = .int ∧ frontEnd s = .inr .printint))

/-- The invariant of the machine: what every step from a state that has it keeps. -/
structure Inv (s : State) : Prop where
  /-- The parameters are in the bounds of R5. -/
  config : s.cfg.WellFormed
  /-- The program fits the instruction memory (R5). -/
  program : s.imem.length ≤ s.cfg.imemDepth
  /-- FrameOK (R39). -/
  frame : FrameOK s
  /-- The stack memory keeps its canonical form. -/
  canonical : s.mem.wf
  /-- Every listed cell exists (R35). -/
  cells : s.mem.within s.cfg.maxStackSize
  /-- "err is 0 (NONE) while running" (R38). -/
  runningErr : s.run = .running → s.err = .none
  /-- A normal end is one at pc = N (R235). -/
  normalEnd : s.run = .halted → s.err = .none → s.pc.toInt = s.progLen
  /-- The core never raises LoadError (R215). -/
  noLoadError : s.err ≠ .loadError
  /-- Draws are numbered upwards, so that the next one is fresh. -/
  draws : s.resetDraw < s.nextDraw ∧ s.mem.drawsBelow s.nextDraw
  /-- An offered event is pending (R79). -/
  offers : ∀ e, s.offer = some e → OfferPending s e

end Sys2Proof.Machine
end

