-- ==== Sys2Proof/Certificates/Slice0/Obligations.lean ====
section
/-! DEFINITION. The statements about the machine. Each docstring names the rule of spec/ it follows; where a
clause rests on a decision the spec marks as its own (92_eei_decisions.md) or on a choice of this
model, the docstring says so. -/

open Sys2Proof Sys2Proof.Machine

/-! ### Encoding and loading -/

/-- Packed words written out from R92 and the map of R95 (one for each family, four of them the rows of
95_test_vectors.md V6) decode to the instructions they stand for. -/
def Obligations.WrittenOutWordsDecode : Prop :=
  decodeWord 0x00_00000000_00000000 = .ok .add ∧
  decodeWord 0x0D_00000000_00000000 = .ok .not ∧
  decodeWord 0x0E_FFFFFFFD_00000000 = .ok (.push (-3)) ∧
  decodeWord 0x10_FFFFFFFC_00000000 = .ok (.load (-4)) ∧
  decodeWord 0x17_00000000_00000000 = .ok .storestack ∧
  decodeWord 0x1B_00000008_00000000 = .ok (.jmpf 8) ∧
  decodeWord 0x13_00000005_00000000 = .ok (.frame 5) ∧
  decodeWord 0x20_00000000_00000000 = .ok .ret ∧
  decodeWord 0x1D_00000000_00000000 = .ok .printint ∧
  decodeWord 0x21_00000000_00000000 = .error (.unknownOpcode 33)

/-- Decoding the packed word of any instruction, with its operand at every value, gives it back. -/
def Obligations.DecodeOfEncodeIsIdentity : Prop := ∀ i : Instr, decodeWord (encodeWord i) = .ok i

/-- R97: one op value selects at most one instruction and one instruction has exactly one. A slot the
loader may write is the encoding of what it decodes to. -/
def Obligations.EncodeOfDecodeIsIdentity : Prop :=
  ∀ (sl : Slot) (i : Instr), sl.wellFormed = true → decode sl = .ok i → encode i = sl

/-- R94, R97, R98 (decisions D36, D37): the op alone selects; field b never matters, field a does not for an
arity-0 opcode; exactly the ops 33 to 255 select nothing. -/
def Obligations.OpAloneSelects : Prop :=
  (∀ sl sl' : Slot, sl.op = sl'.op → (sl.a = sl'.a ∨ opcodeArity sl.op.toNat = some 0) →
    decode sl = decode sl') ∧
  (∀ sl : Slot, decode sl = .error (.unknownOpcode sl.op) ↔ 33 ≤ sl.op.toNat)

/-- R90 and R93: loading the token stream of a program that fits gives the slots of its instructions. -/
def Obligations.LoadingTokenStreamGivesProgram : Prop :=
  ∀ (depth : Nat) (prog : List Instr), prog.length ≤ depth →
    load depth (programText prog) = .ok (prog.map encode)

/-- R93, R94, R98 (a): a program the loader accepts fits the instruction memory and holds only ops of the
map, with 0 in every reserved field, whatever the source text. -/
def Obligations.LoadedProgramsAreWellFormed : Prop :=
  ∀ (c : Config) (text : Text) (prog : List Slot),
    load c.imemDepth text = .ok prog → programWellFormed c prog = true

/-- R91, R93 and R98 (a), with the order of R93's checks: after a program that fits, a tag outside 0 to 32 is
LoadError(UnknownOpcodeTag), and a token outside the grammar or the range of R91 is LoadError(BadToken),
as a tag and, where a slot is left, as an operand; there an opcode whose operand is missing is
LoadError(UnexpectedEndOfInput); a program longer than IMEM_DEPTH is LoadError(ProgramTooLong) (decisions
D6, D32). -/
def Obligations.LoaderRefusesBadStreams : Prop :=
  ∀ (depth : Nat) (prog : List Instr),
    (prog.length ≤ depth → ∀ tag : Word, (tag.toInt < 0 ∨ 32 < tag.toInt) →
      load depth (programText prog ++ decimal tag.toInt) = .error .unknownOpcodeTag) ∧
    (prog.length ≤ depth → ∀ t : Text, BadToken t →
      load depth (programText prog ++ t) = .error .badToken) ∧
    (prog.length < depth → ∀ tag : Nat, opcodeArity tag = some 1 →
      load depth (programText prog ++ decimal tag) = .error .unexpectedEndOfInput ∧
      ∀ t : Text, BadToken t → load depth (programText prog ++ decimal tag ++ 0x20 :: t) = .error .badToken) ∧
    (depth < prog.length → load depth (programText prog) = .error .programTooLong)

/-! ### The step -/

/-- R203: when the pre-dispatch checks pass and the slot at pc decodes to an instruction, the step is that
instruction executed at that very state; the instruction's own meaning moves pc. -/
def Obligations.StepExecutesDecodedInstruction : Prop :=
  ∀ (s : State) (sl : Slot) (i : Instr), Running s → FrameOK s → 0 ≤ s.pc.toInt →
    s.imem[s.pc.toInt.toNat]? = some sl → decode sl = .ok i → step s = exec i s

/-- R39: FrameOK is checked before every dispatch. An instruction is dispatched only where it holds, and
where it does not the step raises FrameInvariantViolation(Invariant); that no event is offered after that is
the model's reading (DEDUCED, notes/assumptions/8.md). -/
def Obligations.FrameCheckPrecedesDispatch : Prop :=
  ∀ s : State,
    (∀ i, frontEnd s = .inr i → 0 ≤ s.sp.toInt ∧ s.sp.toInt ≤ s.cfg.maxStackSize ∧
      0 ≤ s.bp.toInt ∧ s.bp.toInt ≤ s.cfg.maxStackSize ∧ s.bp.toInt ≤ s.sp.toInt) ∧
    (Running s →
      ¬ (0 ≤ s.sp.toInt ∧ s.sp.toInt ≤ s.cfg.maxStackSize ∧
        0 ≤ s.bp.toInt ∧ s.bp.toInt ≤ s.cfg.maxStackSize ∧ s.bp.toInt ≤ s.sp.toInt) →
      step s = .next (s.raise (.frameInvariantViolation .invariant)))

/-- R206: after the frame check, pc = N halts normally with err = NONE, and a pc below 0 or above N raises
ProgramCounterOutOfBounds(pc); an empty program halts normally at its first step. That no event is offered
after a halt is the model's reading, which R206 does not say (DEDUCED, notes/assumptions/8.md). -/
def Obligations.TerminationAndPcBounds : Prop :=
  (∀ s : State, Running s → FrameOK s →
    (s.pc.toInt = s.progLen →
      step s = .next { s with run := .halted, err := .none, offer := none }) ∧
    (s.pc.toInt < 0 ∨ s.progLen < s.pc.toInt →
      step s = .next (s.raise (.programCounterOutOfBounds s.pc.toInt)))) ∧
  (∀ s : State, s.imem = [] →
    step s.hostReset = .next { s.hostReset with run := .halted, err := .none })

/-- R207: an op outside the map raises UnknownOpcode(op) at dispatch, whatever the operand fields hold; with
the loader of R93 no program holds one. That no event is offered after the raise is the model's reading
(DEDUCED, notes/assumptions/8.md). -/
def Obligations.UnknownOpcodeRaises : Prop :=
  (∀ (s : State) (sl : Slot), Running s → FrameOK s → 0 ≤ s.pc.toInt →
    s.imem[s.pc.toInt.toNat]? = some sl → 33 ≤ sl.op.toNat →
    step s = .next (s.raise (.unknownOpcode sl.op))) ∧
  (∀ (depth : Nat) (text : Text) (prog : List Slot), load depth text = .ok prog →
    ∀ sl ∈ prog, sl.op.toNat ≤ 32)

/-- R203, R226 and R230: the core steps exactly while it is released from reset and RUNNING. Then it has a next
state whatever its program, registers and memory hold; HALTED or held in reset it has none. R250 gives
progress only given R242, that the host accepts every offered event, and U8 calls a core whose host never does
`stuck`. That a print the host refuses, one it refuses for ever included, still has a next state, in which it
waits, is the model's choice (DESIGN CHOICE, notes/assumptions/6.md); so this claim is no progress of the
program. -/
def Obligations.StepsExactlyWhileRunning : Prop :=
  ∀ s : State, Running s ↔ ∃ t, step s = .next t

/-- R204: RUNNING is entered at reset release; HALTED is entered by the normal end, with err = NONE at
pc = N, or by a fatal error, with err not NONE; a step does nothing else to the two. -/
def Obligations.WaysToHalt : Prop :=
  (∀ s : State, s.releaseReset.run = .running) ∧
  (∀ s t : State, step s = .next t → s.err = .none →
    (t.run = .running ∧ t.err = .none) ∨
    (t.run = .halted ∧ t.err = .none ∧ FrameOK s ∧ s.pc.toInt = s.progLen) ∨
    (t.run = .halted ∧ t.err ≠ .none)) ∧
  (∀ (i : Instr) (s t : State), s.run = .running → exec i s = .next t → t.run = .halted → t.err ≠ .none)

/-- R201: a raise halts the core with the error's code and nothing else: pc, sp, bp, rv, S, D and OUT keep
the values they had before the instruction, or before the check. That the event offered, if any, is dropped
is the model's reading, which R201 does not say (DEDUCED, notes/assumptions/8.md). -/
def Obligations.RaiseChangesOnlyRunAndErr : Prop :=
  (∀ s t : State, step s = .next t → t.run = .halted → t.err ≠ .none →
    t.pc = s.pc ∧ t.sp = s.sp ∧ t.bp = s.bp ∧ t.rv = s.rv ∧ t.mem = s.mem ∧ t.out = s.out ∧
    t = { s with run := .halted, err := t.err, offer := none }) ∧
  (∀ (i : Instr) (s t : State), s.run = .running → exec i s = .next t → t.run = .halted →
    ∃ e : FatalError, t = { s with run := .halted, err := e.code, offer := none })

/-- R200, column "raised by", for the errors an instruction raises from a state with FrameOK. The codes are
the spec's own numbering (D29). -/
def Obligations.ErrorsAndTheirSources : Prop :=
  ∀ (i : Instr) (s t : State), FrameOK s → s.run = .running → exec i s = .next t → t.run = .halted →
    (t.err = .stackOverflow → (∃ n, i = .push n) ∨ (∃ n, i = .load n) ∨ (∃ n, i = .frame n) ∨
      i = .storesp ∨ i = .storespoffset ∨ i = .pushstack ∨ ∃ n : Word, i = .alloc n ∧ 0 < n.toInt) ∧
    (t.err = .insufficientOperands → i ∈ binaryInstrs ∨ i = .not ∨ i = .pop ∨ (∃ n, i = .store n) ∨
      (∃ n : Word, i = .alloc n ∧ n.toInt < 0) ∨ i = .unframe ∨ i = .storestack ∨
      (∃ n, i = .jmpt n) ∨ (∃ n, i = .jmpf n) ∨ i = .printc ∨ i = .printint ∨ i = .ret) ∧
    (t.err = .frameInvariantViolation → i = .popstack) ∧
    (t.err = .arithmeticError → i = .div ∨ i = .mod ∨
      (s.cfg.overflowTrap = true ∧ (i = .add ∨ i = .sub ∨ i = .mul))) ∧
    (t.err = .addressOutOfBounds → (∃ n, i = .load n) ∨ (∃ n, i = .store n) ∨ i = .storestack) ∧
    (t.err = .undefinedRead → s.cfg.uninitCheck = true ∧
      (∀ n, i ≠ .push n) ∧ i ≠ .pop ∧ (∀ n, i ≠ .alloc n) ∧ (∀ n, i ≠ .frame n) ∧ i ≠ .storesp ∧
      i ≠ .storespoffset ∧ (∀ n, i ≠ .goto n) ∧ (∀ n, i ≠ .jump n) ∧ i ≠ .pushstack) ∧
    t.err ≠ .none ∧ t.err ≠ .programCounterOutOfBounds ∧ t.err ≠ .unknownOpcode ∧ t.err ≠ .loadError

/-! ### Which instructions write which state -/

/-- R32: an instruction that completes advances pc by one, unless it sets pc: GOTO, JUMP, JMPT and JMPF when
taken, UNFRAME. An explicit write is final. -/
def Obligations.PcAdvancesUnlessSet : Prop :=
  ∀ (i : Instr) (s t : State), s.run = .running → exec i s = .next t → t.run = .running →
    (i = .printc ∨ i = .printint → s.ready.now = true) →
    match i with
    | .goto target => t.pc = target
    | .jump delta => t.pc = s.pc + delta
    | .jmpt delta => t.pc = if valueAt s (s.sp.toInt - 1) ≠ 0 then s.pc + delta else s.pc + 1
    | .jmpf delta => t.pc = if valueAt s (s.sp.toInt - 1) = 0 then s.pc + delta else s.pc + 1
    | .unframe => t.pc = valueAt s (s.sp.toInt - 1)
    | _ => t.pc = s.pc + 1 ∧ (s.pc.toInt < intMax → t.pc.toInt = s.pc.toInt + 1)

/-- R34: only PUSHSTACK and POPSTACK write bp; an instruction is dispatched only with
0 <= bp <= MAX_STACK_SIZE and bp <= sp; its reset value is 0. -/
def Obligations.BasePointerRule : Prop :=
  (∀ (i : Instr) (s t : State), exec i s = .next t → i ≠ .pushstack → i ≠ .popstack → t.bp = s.bp) ∧
  (∀ (s : State) (i : Instr), frontEnd s = .inr i →
    0 ≤ s.bp.toInt ∧ s.bp.toInt ≤ s.cfg.maxStackSize ∧ s.bp.toInt ≤ s.sp.toInt) ∧
  (∀ s : State, s.releaseReset.bp = 0)

/-- R36: only RETURN and UNFRAME write rv; RETURN writes the popped value, UNFRAME writes 0; only UNFRAME
reads it (two states that differ in rv alone stay so); its reset value is 0. -/
def Obligations.ReturnValueRule : Prop :=
  (∀ (i : Instr) (s t : State), exec i s = .next t → i ≠ .ret → i ≠ .unframe → t.rv = s.rv) ∧
  (∀ s t : State, s.run = .running → exec .ret s = .next t → t.run = .running →
    t.rv = valueAt s (s.sp.toInt - 1)) ∧
  (∀ s t : State, s.run = .running → exec .unframe s = .next t → t.run = .running → t.rv = 0) ∧
  (∀ (i : Instr) (s t : State) (x : Word), i ≠ .unframe → exec i s = .next t →
    ∃ t', exec i (s.setRv x) = .next t' ∧ t'.setRv 0 = t.setRv 0) ∧
  (∀ s : State, s.releaseReset.rv = 0)

/-- R37: PRINTC appends (CHAR, v) and PRINTINT appends (INT, v), v the popped word; no other instruction
touches OUT; it is empty at reset. -/
def Obligations.OutputSequenceRule : Prop :=
  (∀ (i : Instr) (s t : State), exec i s = .next t → i ≠ .printc → i ≠ .printint → t.out = s.out) ∧
  (∀ s : State, FrameOK s → OneOperand s → s.ready.now = true →
    (∃ t, exec .printc s = .next t ∧ t.out = s.out ++ [⟨.char, valueAt s (s.sp.toInt - 1)⟩]) ∧
    (∃ t, exec .printint s = .next t ∧ t.out = s.out ++ [⟨.int, valueAt s (s.sp.toInt - 1)⟩])) ∧
  (∀ s : State, s.releaseReset.out = [])

/-- R43: the program and the parameters are not state of the core; no step changes them. -/
def Obligations.StepKeepsProgramAndParameters : Prop :=
  ∀ s t : State, step s = .next t → t.imem = s.imem ∧ t.cfg = s.cfg ∧ t.progLen = s.progLen

/-- R78 and R235: a step appends at most one event to OUT, after all earlier ones, and only by a print. -/
def Obligations.OutputGrowsInOrder : Prop :=
  ∀ s t : State, step s = .next t →
    t.out = s.out ∨
    ∃ e, t.out = s.out ++ [e] ∧ (frontEnd s = .inr .printc ∨ frontEnd s = .inr .printint)

/-! ### Memory -/

/-- R67 and R77: a write stores the word and sets the defined bit of one cell, and has no other effect; a read
of that cell then gives the word, and a read of any other cell what it gave before. The defined bit is
the spec's own (D21). -/
def Obligations.ReadAfterWrite : Prop :=
  ∀ (s t : State) (a : Int) (v : Word), memWrite s a v = .ok t →
    t.cellAt a.toNat = some { word := v, status := .defined } ∧ t.isDefined a.toNat = true ∧
    memRead t a = .ok v ∧ (∀ b : Int, b ≠ a → memRead t b = memRead s b) ∧
    (∃ m, t = { s with mem := m } ∧ ∀ b : Nat, b ≠ a.toNat → m.lookup b = s.mem.lookup b)

/-- R66 (decision D21): the three ends of a read. A cell outside the memory is AddressOutOfBounds; with
UNINIT_CHECK a cell with D = 0 is UndefinedRead; any other read gives the word the cell holds, which is
S[a] where D[a] = 1 and a free value, the same at every repetition (R76), where D[a] = 0. -/
def Obligations.ReadOfCell : Prop :=
  ∀ (s : State) (a : Int),
    (¬ (0 ≤ a ∧ a < s.cfg.maxStackSize) → memRead s a = .error (.addressOutOfBounds a)) ∧
    (0 ≤ a → a < s.cfg.maxStackSize → s.cfg.uninitCheck = true → s.isDefined a.toNat = false →
      memRead s a = .error (.undefinedRead a)) ∧
    (0 ≤ a → a < s.cfg.maxStackSize → Readable s a → memRead s a = .ok (valueAt s a)) ∧
    (∀ w, s.cellAt a.toNat = some { word := w, status := .defined } → valueAt s a = w)

/-! ### ALU -/

/-- R101, R103, R110 to R112: ADD, SUB and MUL replace their two operands by the exact result, wrapped to a
word; they do so whenever the result is a word or OVERFLOW_TRAP is off (the switch and the wrap are the
spec's own, D7). -/
def Obligations.AddSubMulResults : Prop :=
  ∀ s : State, FrameOK s → TwoOperands s →
    let a := (valueAt s (s.sp.toInt - 2)).toInt
    let b := (valueAt s (s.sp.toInt - 1)).toInt
    (IsWord (a + b) ∨ s.cfg.overflowTrap = false → BinaryResult .add s (wrap (a + b))) ∧
    (IsWord (a - b) ∨ s.cfg.overflowTrap = false → BinaryResult .sub s (wrap (a - b))) ∧
    (IsWord (a * b) ∨ s.cfg.overflowTrap = false → BinaryResult .mul s (wrap (a * b)))

/-- R113, R114: for a divisor other than 0, DIV leaves the quotient truncated toward zero, wrapped in the one
case INT_MIN / -1 (D8), and MOD leaves a - b * quotient (D9). -/
def Obligations.DivModResults : Prop :=
  ∀ s : State, FrameOK s → TwoOperands s →
    let a := (valueAt s (s.sp.toInt - 2)).toInt
    let b := (valueAt s (s.sp.toInt - 1)).toInt
    b ≠ 0 →
    (¬ (a = intMin ∧ b = -1) ∨ s.cfg.overflowTrap = false → BinaryResult .div s (wrap (a.tdiv b))) ∧
    BinaryResult .mod s (wrap (a - b * a.tdiv b))

/-- R8 (decision D9): the law of division, which fixes both functions: a = b * q + r, r is 0 or has the sign
of a, |r| < |b|, and r is a word when a is. -/
def Obligations.QuotientAndRemainderLaw : Prop :=
  ∀ a b : Int, b ≠ 0 →
    a = b * tdiv a b + trem a b ∧ (trem a b = 0 ∨ (0 < trem a b ↔ 0 < a)) ∧
    (trem a b).natAbs < b.natAbs ∧ (IsWord a → IsWord (trem a b)) ∧
    (IsWord a → IsWord b → ¬ (a = intMin ∧ b = -1) → IsWord (tdiv a b))

/-- R103, R113, R114: a divisor of 0 raises ArithmeticError(DivisionByZero); with OVERFLOW_TRAP a result that
is no word raises ArithmeticError(Overflow) (D7, D8). -/
def Obligations.ArithmeticErrors : Prop :=
  ∀ s : State, FrameOK s → TwoOperands s →
    let a := (valueAt s (s.sp.toInt - 2)).toInt
    let b := (valueAt s (s.sp.toInt - 1)).toInt
    (b = 0 → Raises .div s (.arithmeticError .divisionByZero) ∧
      Raises .mod s (.arithmeticError .divisionByZero)) ∧
    (s.cfg.overflowTrap = true →
      (¬ IsWord (a + b) → Raises .add s (.arithmeticError .overflow)) ∧
      (¬ IsWord (a - b) → Raises .sub s (.arithmeticError .overflow)) ∧
      (¬ IsWord (a * b) → Raises .mul s (.arithmeticError .overflow)) ∧
      (a = intMin → b = -1 → Raises .div s (.arithmeticError .overflow)))

/-- R115 to R120: each comparison leaves 1 if its relation of the signed words holds and 0 otherwise (the
signedness is the spec's own, D10). -/
def Obligations.ComparisonResults : Prop :=
  ∀ s : State, FrameOK s → TwoOperands s →
    let a := (valueAt s (s.sp.toInt - 2)).toInt
    let b := (valueAt s (s.sp.toInt - 1)).toInt
    BinaryResult .less s (if a < b then 1 else 0) ∧
    BinaryResult .leq s (if a ≤ b then 1 else 0) ∧
    BinaryResult .eq s (if a = b then 1 else 0) ∧
    BinaryResult .neq s (if a ≠ b then 1 else 0) ∧
    BinaryResult .geq s (if a ≥ b then 1 else 0) ∧
    BinaryResult .greater s (if a > b then 1 else 0)

/-- R121 to R123: AND, OR and NOT are logical, with the results 0 and 1 (D10); NOT works in place and leaves
sp unchanged. -/
def Obligations.BooleanResults : Prop :=
  ∀ s : State, FrameOK s →
    (TwoOperands s →
      let a := valueAt s (s.sp.toInt - 2)
      let b := valueAt s (s.sp.toInt - 1)
      BinaryResult .and s (if a ≠ 0 ∧ b ≠ 0 then 1 else 0) ∧
      BinaryResult .or s (if a ≠ 0 ∨ b ≠ 0 then 1 else 0)) ∧
    (OneOperand s →
      ∃ m, exec .not s = .next { s with mem := m, pc := s.pc + 1 } ∧
        WritesCell s m (s.sp.toInt - 1) (if valueAt s (s.sp.toInt - 1) = 0 then 1 else 0))

/-- R102: every ALU instruction calls Require before it reads an operand; only operands of the current frame
count, so a frame that holds one raises InsufficientOperands for a binary instruction although cell
sp - 2 exists. That no event is
offered after the raise is the model's reading (DEDUCED, notes/assumptions/8.md). -/
def Obligations.AluRequiresOperandsFirst : Prop :=
  ∀ s : State,
    (s.sp.toInt - s.bp.toInt < 2 → ∀ i ∈ binaryInstrs, Raises i s (.insufficientOperands 2)) ∧
    (s.sp.toInt - s.bp.toInt < 1 → Raises .not s (.insufficientOperands 1))

/-- R66, R101, R208 (decisions D18, D21): a binary instruction whose left operand is undefined raises
UndefinedRead(sp - 2); one whose right operand alone is, UndefinedRead(sp - 1); DIV and MOD do so
before they look at the divisor. -/
def Obligations.AluUndefinedOperands : Prop :=
  ∀ s : State, FrameOK s → s.cfg.uninitCheck = true → 2 ≤ s.sp.toInt - s.bp.toInt →
    (s.isDefined (s.sp.toInt - 2).toNat = false →
      ∀ i ∈ binaryInstrs, Raises i s (.undefinedRead (s.sp.toInt - 2))) ∧
    (s.isDefined (s.sp.toInt - 2).toNat = true → s.isDefined (s.sp.toInt - 1).toNat = false →
      ∀ i ∈ binaryInstrs, Raises i s (.undefinedRead (s.sp.toInt - 1)))

/-! ### Stack and memory access -/

/-- R130, R135, R136, R160: PUSH pushes its immediate, STORESP the sp before the push, STORESPOFFSET
sp - bp (D16), FRAME the return address pc + delta. -/
def Obligations.PushingInstructionsResults : Prop :=
  ∀ s : State, FrameOK s → RoomForOne s →
    (∀ imm, PushResult (.push imm) s imm) ∧
    PushResult .storesp s s.sp ∧
    PushResult .storespoffset s (s.sp - s.bp) ∧
    (∀ delta, PushResult (.frame delta) s (s.pc + delta))

/-- R65: every instruction that pushes calls Room(1) before it writes, and ALLOC with n > 0 calls Room(n):
where the capacity would be exceeded it raises StackOverflow. That no event is offered after
the raise is the model's reading (DEDUCED, notes/assumptions/8.md). -/
def Obligations.CapacityExceededRaises : Prop :=
  ∀ s : State,
    (s.cfg.maxStackSize < s.sp.toInt + 1 →
      (∀ w, Raises (.push w) s .stackOverflow) ∧ (∀ w, Raises (.load w) s .stackOverflow) ∧
      (∀ w, Raises (.frame w) s .stackOverflow) ∧ Raises .storesp s .stackOverflow ∧
      Raises .storespoffset s .stackOverflow ∧ Raises .pushstack s .stackOverflow) ∧
    (∀ n : Word, 0 < n.toInt → s.cfg.maxStackSize < s.sp.toInt + n.toInt →
      Raises (.alloc n) s .stackOverflow)

/-- R131: POP lowers sp and reads nothing: it completes whether or not the cell is defined. -/
def Obligations.PopResult : Prop :=
  ∀ s : State, 1 ≤ s.sp.toInt - s.bp.toInt →
    exec .pop s = .next { s with sp := s.sp - 1, pc := s.pc + 1 }

/-- R132 (window D12): LOAD pushes the cell at bp + offset, computed exactly (D20), where it lies in
[0, sp). -/
def Obligations.LoadResult : Prop :=
  ∀ (s : State) (offset : Word), FrameOK s → RoomForOne s →
    0 ≤ s.bp.toInt + offset.toInt → s.bp.toInt + offset.toInt < s.sp.toInt →
    Readable s (s.bp.toInt + offset.toInt) →
    PushResult (.load offset) s (valueAt s (s.bp.toInt + offset.toInt))

/-- R133: STORE pops the top word into the cell at bp + offset, where it lies in [0, sp - 1) (D12, D20). -/
def Obligations.StoreResult : Prop :=
  ∀ (s : State) (offset : Word), FrameOK s → OneOperand s →
    0 ≤ s.bp.toInt + offset.toInt → s.bp.toInt + offset.toInt < s.sp.toInt - 1 →
    ∃ m, exec (.store offset) s = .next { s with mem := m, sp := s.sp - 1, pc := s.pc + 1 } ∧
      WritesCell s m (s.bp.toInt + offset.toInt) (valueAt s (s.sp.toInt - 1))

/-- R137: STORESTACK pops the address and the value below it and stores the value at bp + address, where that
lies in [0, sp - 2) (D12, D20). -/
def Obligations.StorestackResult : Prop :=
  ∀ s : State, FrameOK s → TwoOperands s →
    let ea := s.bp.toInt + (valueAt s (s.sp.toInt - 1)).toInt
    0 ≤ ea → ea < s.sp.toInt - 2 →
    ∃ m, exec .storestack s = .next { s with mem := m, sp := s.sp - 2, pc := s.pc + 1 } ∧
      WritesCell s m ea (valueAt s (s.sp.toInt - 2))

/-- R62, R132, R133, R137 (decisions D12, D18): where the explicit address lies outside the window the
instruction raises AddressOutOfBounds(ea); the window comes after Room in LOAD, after Require in STORE,
and in STORESTACK after the read of the address and before the read of the value. -/
def Obligations.AddressOutsideWindowRaises : Prop :=
  ∀ (s : State) (offset : Word), FrameOK s →
    (RoomForOne s → ¬ (0 ≤ s.bp.toInt + offset.toInt ∧ s.bp.toInt + offset.toInt < s.sp.toInt) →
      Raises (.load offset) s (.addressOutOfBounds (s.bp.toInt + offset.toInt))) ∧
    (1 ≤ s.sp.toInt - s.bp.toInt →
      ¬ (0 ≤ s.bp.toInt + offset.toInt ∧ s.bp.toInt + offset.toInt < s.sp.toInt - 1) →
      Raises (.store offset) s (.addressOutOfBounds (s.bp.toInt + offset.toInt))) ∧
    (2 ≤ s.sp.toInt - s.bp.toInt → Readable s (s.sp.toInt - 1) →
      valueAt s (s.sp.toInt - 1) = offset →
      ¬ (0 ≤ s.bp.toInt + offset.toInt ∧ s.bp.toInt + offset.toInt < s.sp.toInt - 2) →
      Raises .storestack s (.addressOutOfBounds (s.bp.toInt + offset.toInt)))

/-- R134 (n < 0 is decision D13): ALLOC moves sp by n and pc by one. For n > 0 the reserved cells become
undefined with their contents unchanged, and every other cell is as before; for n <= 0 no cell changes.
The draw counter is the model's own (notes/assumptions/5.md). R134 contradicts itself for ALLOC INT_MAX at sp = 0
with MAX_STACK_SIZE = INT_MAX; that it succeeds there, as the pseudocode says, is the model's choice
(DESIGN CHOICE, notes/assumptions/18.md). -/
def Obligations.AllocResult : Prop :=
  ∀ (s : State) (n : Word),
    (0 < n.toInt → s.sp.toInt + n.toInt ≤ s.cfg.maxStackSize →
      ∃ m, exec (.alloc n) s =
          .next { s with mem := m, sp := s.sp + n, pc := s.pc + 1, nextDraw := s.nextDraw + 1 } ∧
        (∀ a : Nat, s.sp.toInt ≤ a → a < s.sp.toInt + n.toInt →
          ({ s with mem := m } : State).isDefined a = false) ∧
        (∀ a : Nat, (m.lookup a).map StackCell.word = (s.mem.lookup a).map StackCell.word) ∧
        (∀ a : Nat, ¬ (s.sp.toInt ≤ a ∧ a < s.sp.toInt + n.toInt) → m.lookup a = s.mem.lookup a)) ∧
    (n.toInt ≤ 0 → -n.toInt ≤ s.sp.toInt - s.bp.toInt ∨ n = 0 →
      exec (.alloc n) s = .next { s with sp := s.sp + n, pc := s.pc + 1 })

/-- R64 (the counts are decision D11): outside the ALU, an instruction that consumes n operands of the current
frame raises InsufficientOperands(n) when the frame holds fewer. -/
def Obligations.TooFewOperandsRaises : Prop :=
  ∀ s : State,
    (s.sp.toInt - s.bp.toInt < 1 →
      Raises .pop s (.insufficientOperands 1) ∧ (∀ w, Raises (.store w) s (.insufficientOperands 1)) ∧
      Raises .unframe s (.insufficientOperands 1) ∧ (∀ w, Raises (.jmpt w) s (.insufficientOperands 1)) ∧
      (∀ w, Raises (.jmpf w) s (.insufficientOperands 1)) ∧ Raises .printc s (.insufficientOperands 1) ∧
      Raises .printint s (.insufficientOperands 1) ∧ Raises .ret s (.insufficientOperands 1)) ∧
    (s.sp.toInt - s.bp.toInt < 2 → Raises .storestack s (.insufficientOperands 2)) ∧
    (∀ n : Word, n.toInt < 0 → s.sp.toInt - s.bp.toInt < -n.toInt →
      Raises (.alloc n) s (.insufficientOperands (-n.toInt)))

/-- R66, R208 (decisions D18, D21): outside the binary ALU, an instruction that reads an undefined cell raises
UndefinedRead of it once its earlier checks have passed. -/
def Obligations.UndefinedCellRaises : Prop :=
  ∀ (s : State) (w : Word), FrameOK s → s.cfg.uninitCheck = true →
    (1 ≤ s.sp.toInt - s.bp.toInt → s.isDefined (s.sp.toInt - 1).toNat = false →
      Raises .not s (.undefinedRead (s.sp.toInt - 1)) ∧
      Raises .unframe s (.undefinedRead (s.sp.toInt - 1)) ∧
      Raises (.jmpt w) s (.undefinedRead (s.sp.toInt - 1)) ∧
      Raises (.jmpf w) s (.undefinedRead (s.sp.toInt - 1)) ∧
      Raises .printc s (.undefinedRead (s.sp.toInt - 1)) ∧
      Raises .printint s (.undefinedRead (s.sp.toInt - 1)) ∧
      Raises .ret s (.undefinedRead (s.sp.toInt - 1)) ∧
      (0 ≤ s.bp.toInt + w.toInt → s.bp.toInt + w.toInt < s.sp.toInt - 1 →
        Raises (.store w) s (.undefinedRead (s.sp.toInt - 1)))) ∧
    (RoomForOne s → 0 ≤ s.bp.toInt + w.toInt → s.bp.toInt + w.toInt < s.sp.toInt →
      s.isDefined (s.bp.toInt + w.toInt).toNat = false →
      Raises (.load w) s (.undefinedRead (s.bp.toInt + w.toInt))) ∧
    (2 ≤ s.sp.toInt - s.bp.toInt →
      (s.isDefined (s.sp.toInt - 1).toNat = false → Raises .storestack s (.undefinedRead (s.sp.toInt - 1))) ∧
      (s.isDefined (s.sp.toInt - 1).toNat = true → valueAt s (s.sp.toInt - 1) = w →
        0 ≤ s.bp.toInt + w.toInt → s.bp.toInt + w.toInt < s.sp.toInt - 2 →
        s.isDefined (s.sp.toInt - 2).toNat = false →
        Raises .storestack s (.undefinedRead (s.sp.toInt - 2))))

/-! ### Control transfer and call frames -/

/-- R150, R151: GOTO and JUMP change only pc, to the target and to pc + delta from the instruction's own
index, in every state and for every operand. -/
def Obligations.JumpResults : Prop :=
  ∀ (s : State) (w : Word),
    exec (.goto w) s = .next { s with pc := w } ∧ exec (.jump w) s = .next { s with pc := s.pc + w }

/-- R152, R153: JMPT and JMPF pop their condition, taken or not; they add delta to their own pc when it is
truthy, or falsy, and fall through otherwise. -/
def Obligations.ConditionalJumpResults : Prop :=
  ∀ (s : State) (delta : Word), FrameOK s → OneOperand s →
    exec (.jmpt delta) s = .next { s with
      sp := s.sp - 1
      pc := if valueAt s (s.sp.toInt - 1) ≠ 0 then s.pc + delta else s.pc + 1 } ∧
    exec (.jmpf delta) s = .next { s with
      sp := s.sp - 1
      pc := if valueAt s (s.sp.toInt - 1) = 0 then s.pc + delta else s.pc + 1 }

/-- R161: UNFRAME takes its return address from the top cell, leaves rv there, and zeroes rv; sp stays in
reading A and falls by one in reading B (UNFRAME_POPS, decision D15). -/
def Obligations.UnframeResult : Prop :=
  ∀ s : State, FrameOK s → OneOperand s →
    ∃ m, exec .unframe s = .next { s with
        mem := m, rv := 0, pc := valueAt s (s.sp.toInt - 1)
        sp := if s.cfg.unframePops = true then s.sp - 1 else s.sp } ∧
      WritesCell s m (s.sp.toInt - 1) s.rv

/-- R162: PUSHSTACK saves bp in the cell at sp and makes both sp and bp one past it. -/
def Obligations.PushstackResult : Prop :=
  ∀ s : State, FrameOK s → RoomForOne s →
    ∃ m, exec .pushstack s = .next { s with mem := m, sp := s.sp + 1, bp := s.sp + 1, pc := s.pc + 1 } ∧
      WritesCell s m s.sp.toInt s.bp

/-- R165 (its checks are decision D14): POPSTACK sets sp to bp - 1 and bp to the saved link in cell bp - 1,
where the link lies in [0, bp - 1]; with bp = 0, or any other link, it raises. -/
def Obligations.PopstackResult : Prop :=
  ∀ s : State, FrameOK s →
    let link := valueAt s (s.bp.toInt - 1)
    (s.bp.toInt < 1 → Raises .popstack s (.frameInvariantViolation .noEnclosingFrame)) ∧
    (1 ≤ s.bp.toInt → Readable s (s.bp.toInt - 1) →
      (0 ≤ link.toInt → link.toInt ≤ s.bp.toInt - 1 →
        exec .popstack s = .next { s with sp := s.bp - 1, bp := link, pc := s.pc + 1 }) ∧
      (¬ (0 ≤ link.toInt ∧ link.toInt ≤ s.bp.toInt - 1) →
        Raises .popstack s (.frameInvariantViolation .badSavedBp))) ∧
    (1 ≤ s.bp.toInt → s.cfg.uninitCheck = true → s.isDefined (s.bp.toInt - 1).toNat = false →
      Raises .popstack s (.undefinedRead (s.bp.toInt - 1)))

/-- R166: RETURN moves the popped word to rv and control to the next instruction. -/
def Obligations.ReturnResult : Prop :=
  ∀ s : State, FrameOK s → OneOperand s →
    exec .ret s = .next { s with
      sp := s.sp - 1, rv := valueAt s (s.sp.toInt - 1), pc := s.pc + 1 }

/-- R164, which the spec derives from R162 and R165: PUSHSTACK followed by POPSTACK restores bp and sp, for
every bp <= sp < MAX_STACK_SIZE; only the cell at the restored sp has changed, and pc has moved by 2. -/
def Obligations.FrameRoundTrip : Prop :=
  ∀ s : State, s.cfg.WellFormed → FrameOK s → s.sp.toInt < s.cfg.maxStackSize →
    ∃ t m, exec .pushstack s = .next t ∧ exec .popstack t = .next { s with mem := m, pc := s.pc + 2 } ∧
      WritesCell s m s.sp.toInt s.bp

/-- R161 and the protocol of R163, which the spec derives: in a frame whose saved link lies at cell bp - 1 and
whose caller's FRAME slot lies below it, RETURN, POPSTACK, UNFRAME deliver the result into the FRAME
slot, restore the caller's frame with the result on top, and go to the return address (reading A). -/
def Obligations.CallProtocolDeliversResult : Prop :=
  ∀ s : State, FrameOK s → OneOperand s → s.cfg.unframePops = false →
    Readable s (s.bp.toInt - 1) → Readable s (s.bp.toInt - 2) →
    0 ≤ (valueAt s (s.bp.toInt - 1)).toInt → (valueAt s (s.bp.toInt - 1)).toInt ≤ s.bp.toInt - 2 →
    ∃ t u m, exec .ret s = .next t ∧ exec .popstack t = .next u ∧
      exec .unframe u = .next { s with
        mem := m, sp := s.bp - 1, bp := valueAt s (s.bp.toInt - 1), rv := 0
        pc := valueAt s (s.bp.toInt - 2) } ∧
      WritesCell s m (s.bp.toInt - 2) (valueAt s (s.sp.toInt - 1))

/-! ### Output -/

/-- R180, R181, R79 (handshake D24): where the host accepts, PRINTC and PRINTINT pop the top word, append its
event to OUT and complete. That the host's answer is a sampled input is the model's form (DESIGN CHOICE,
notes/assumptions/6.md). -/
def Obligations.PrintResults : Prop :=
  ∀ s : State, FrameOK s → OneOperand s → s.ready.now = true →
    exec .printc s = .next { s with
      sp := s.sp - 1, pc := s.pc + 1, out := s.out ++ [⟨.char, valueAt s (s.sp.toInt - 1)⟩]
      offer := none, ready := s.ready.later } ∧
    exec .printint s = .next { s with
      sp := s.sp - 1, pc := s.pc + 1, out := s.out ++ [⟨.int, valueAt s (s.sp.toInt - 1)⟩]
      offer := none, ready := s.ready.later }

/-- R79, R241 (decision D24): a print the host does not accept waits; its event stays offered and no
architectural state changes, so that after any number k of refusals the same print completes with the
first acceptance. That each refusal is a step of its own is the model's form (DESIGN CHOICE,
notes/assumptions/6.md). -/
def Obligations.PrintWaitsUntilAccepted : Prop :=
  ∀ (s : State) (k : Nat) (rest : List Bool) (e : OutEvent), OneOperand s →
    (frontEnd s = .inr .printc ∧ e.kind = .char ∨ frontEnd s = .inr .printint ∧ e.kind = .int) →
    e.value = valueAt s (s.sp.toInt - 1) →
    s.ready.samples = List.replicate k false ++ true :: rest →
    (0 < k → step s = .next { s with offer := some e, ready := s.ready.later }) ∧
    core.run (k + 1) s = .next { s with
      sp := s.sp - 1, pc := s.pc + 1, out := s.out ++ [e], offer := none
      ready := { s.ready with samples := rest } }

/-- R80 (the low byte is decision D23): the text of a CHAR event is the one byte v[7:0]. -/
def Obligations.CharEventIsItsLowByte : Prop :=
  ∀ v : Word, ∃ b : Byte, renderEvent ⟨.char, v⟩ = [b] ∧ b.toNat = v.toNat % 256

/-- R81 (no separator, D23): the text of an INT event is the decimal representation of the signed word: read
back as a token it is that word; it starts with '-' exactly when the word is negative, and its first digit
is '0' exactly when the word is 0, which is the single digit '0'; there is no '+'. -/
def Obligations.IntEventIsItsDecimalText : Prop :=
  ∀ v : Word, parseToken (renderEvent ⟨.int, v⟩) = .ok v.toInt ∧
    ((renderEvent ⟨.int, v⟩).head? = some 0x2D ↔ v.toInt < 0) ∧
    ((renderEvent ⟨.int, v⟩).head? = some 0x30 ↔ v = 0) ∧
    (renderEvent ⟨.int, v⟩).head? ≠ some 0x2B ∧
    (v.toInt < 0 → (renderEvent ⟨.int, v⟩).tail.head? ≠ some 0x30) ∧
    (v = 0 → renderEvent ⟨.int, v⟩ = [0x30])

/-! ### Invariants -/

/-- The invariant holds in the state after reset. It includes the model's own choices of a canonical memory
and of the reset parameters (notes/assumptions/2.md, 4.md). -/
def Obligations.InvariantHoldsAtReset : Prop := Inv State.reset

/-- Every step keeps the invariant. It contains the claim the spec derives in R205: every instruction rule
preserves FrameOK. -/
def Obligations.StepKeepsInvariant : Prop := ∀ s t : State, Inv s → step s = .next t → Inv t

/-- R233, R215, R230 (decisions D31, D32): booting a source in any state with admissible parameters either
reports a load error and keeps the core in reset, or releases it in a state with the invariant, with the
loaded program, at pc = sp = bp = rv = 0, nothing emitted and every cell undefined. -/
def Obligations.BootEstablishesInvariant : Prop :=
  ∀ (s : State) (source : Option Text), s.cfg.WellFormed →
    match loadSource s.cfg.imemDepth source with
    | .error e => (s.boot source).2 = some e ∧ (s.boot source).1.rst = true ∧
        (∀ t, step (s.boot source).1 ≠ .next t)
    | .ok prog => (s.boot source).2 = none ∧ Inv (s.boot source).1 ∧ Running (s.boot source).1 ∧
        (s.boot source).1.imem = prog ∧ (s.boot source).1.pc = 0 ∧ (s.boot source).1.sp = 0 ∧
        (s.boot source).1.bp = 0 ∧ (s.boot source).1.rv = 0 ∧ (s.boot source).1.out = [] ∧
        (s.boot source).1.err = .none ∧ (s.boot source).1.offer = none ∧
        ∀ a, (s.boot source).1.isDefined a = false

/-- R47 (c), R231 and U3, which the spec derives: with UNINIT_CHECK, what lies at or above sp, or in an
undefined cell, is never observed: two states that agree on the rest go through the same step, to
states that agree again. -/
def Obligations.StaleCellsAreNeverObserved : Prop :=
  ∀ s s' t : State, s.cfg.uninitCheck = true → LiveEqual s s' → step s = .next t →
    ∃ t', step s' = .next t' ∧ LiveEqual t t'

/-! ### The host's view -/

/-- R42 and R200 (the layout is decision D30, the numbers are decision D29): STATUS has HALTED in bit 0 and
the error code in bits 7:4; every other bit reads 0. Each error has its code, the codes the numbers 1 to
8, NONE the number 0 and LoadError, which is no error of the core, the number 9. -/
def Obligations.StatusWordFields : Prop :=
  ∀ s : State,
    (statusWord s).getLsbD 0 = decide (s.run = .halted) ∧
    (statusWord s).extractLsb' 4 4 = s.err.bits ∧
    (statusWord s).extractLsb' 1 3 = 0 ∧ (statusWord s).extractLsb' 8 24 = 0 ∧
    (FatalError.stackOverflow.code = .stackOverflow ∧
      (∀ n, (FatalError.insufficientOperands n).code = .insufficientOperands) ∧
      (∀ pc, (FatalError.programCounterOutOfBounds pc).code = .programCounterOutOfBounds) ∧
      (∀ cause, (FatalError.frameInvariantViolation cause).code = .frameInvariantViolation) ∧
      (∀ cause, (FatalError.arithmeticError cause).code = .arithmeticError) ∧
      (∀ op, (FatalError.unknownOpcode op).code = .unknownOpcode) ∧
      (∀ ea, (FatalError.addressOutOfBounds ea).code = .addressOutOfBounds) ∧
      ∀ a, (FatalError.undefinedRead a).code = .undefinedRead) ∧
    (ErrCode.none.bits = 0 ∧ ErrCode.stackOverflow.bits = 1 ∧ ErrCode.insufficientOperands.bits = 2 ∧
      ErrCode.programCounterOutOfBounds.bits = 3 ∧ ErrCode.frameInvariantViolation.bits = 4 ∧
      ErrCode.arithmeticError.bits = 5 ∧ ErrCode.unknownOpcode.bits = 6 ∧ ErrCode.addressOutOfBounds.bits = 7 ∧
      ErrCode.undefinedRead.bits = 8 ∧ ErrCode.loadError.bits = 9)

/-- R46, R230, R211 (decision D31): reset, from any state whatever, gives the reset values: RUNNING at slot 0
with zero registers, err 0, nothing emitted or offered, every cell undefined; the host's program and the
parameters stay. -/
def Obligations.ResetFromAnyState : Prop :=
  ∀ s : State, Running s.hostReset ∧ s.hostReset.pc = 0 ∧ s.hostReset.sp = 0 ∧ s.hostReset.bp = 0 ∧
    s.hostReset.rv = 0 ∧ s.hostReset.err = .none ∧ s.hostReset.out = [] ∧ s.hostReset.offer = none ∧
    (∀ a, s.hostReset.isDefined a = false) ∧ statusWord s.hostReset = 0 ∧ FrameOK s.hostReset ∧
    s.hostReset.imem = s.imem ∧ s.hostReset.cfg = s.cfg

/-- R44 and R79 (decisions D22, D24): a step that dispatches a print with its operand there drives out_valid
= 1, out_kind (0 = CHAR, 1 = INT) and out_data, whether the host accepts at once or not; no other step
drives out_valid = 1, none in reset or HALTED; every event a step appends to OUT is the one it offered, and
an event that waits is still offered; imem_addr is pc where the step fetches. That a state's signals are
those of the step that leaves it is the model's form (DESIGN CHOICE, notes/assumptions/16.md). -/
def Obligations.OutputSignalsShowEveryEvent : Prop :=
  ∀ s : State,
    (OneOperand s →
      (frontEnd s = .inr .printc →
        s.ports.outValid = true ∧ s.ports.event = some (0, valueAt s (s.sp.toInt - 1))) ∧
      (frontEnd s = .inr .printint →
        s.ports.outValid = true ∧ s.ports.event = some (1, valueAt s (s.sp.toInt - 1)))) ∧
    (s.ports.outValid = true →
      Running s ∧ OneOperand s ∧ (frontEnd s = .inr .printc ∨ frontEnd s = .inr .printint)) ∧
    (∀ t e, step s = .next t → t.out = s.out ++ [e] → s.ports.event = some (e.kind.bit, e.value)) ∧
    (∀ e, Inv s → s.offer = some e → s.ports.event = some (e.kind.bit, e.value)) ∧
    (∀ i, frontEnd s = .inr i → s.offer = none → s.ports.imemAddr = some s.pc)
end

