-- ==== Sys2Proof/Laws/Memory.lean ====
section
/-! SUPPORT. The stack memory: a read after a write, and the canonical form kept by every operation. -/

namespace Sys2Proof.Machine.Memory

variable (m : Memory)

@[simp] theorem lookup_insert_self (a : Nat) (c : StackCell) : (m.insert a c).lookup a = some c := by
  induction m with
  | nil => simp [Memory.insert, lookup]
  | cons p rest ih =>
    obtain ⟨k, d⟩ := p
    simp only [Memory.insert]
    split
    · simp [lookup]
    · split
      · simp [lookup]
      · rename_i h
        rw [lookup, if_neg (Ne.symm h), ih]

theorem lookup_insert_ne {a b : Nat} (c : StackCell) (h : b ≠ a) :
    (m.insert a c).lookup b = m.lookup b := by
  induction m with
  | nil => simp [Memory.insert, lookup, Ne.symm h]
  | cons p rest ih =>
    obtain ⟨k, d⟩ := p
    simp only [Memory.insert]
    split
    · simp [lookup, Ne.symm h]
    · split
      · rename_i h'
        subst h'
        simp [lookup, Ne.symm h]
      · simp only [lookup, ih]

/-- What an insertion can put into the memory. -/
theorem mem_insert {m : Memory} {a : Nat} {c : StackCell} {p : Nat × StackCell} (h : p ∈ m.insert a c) :
    p = (a, c) ∨ p ∈ m := by
  induction m with
  | nil => simpa [Memory.insert] using h
  | cons q rest ih =>
    obtain ⟨k, d⟩ := q
    simp only [Memory.insert] at h
    split at h
    · simpa using h
    · split at h
      · rcases List.mem_cons.mp h with h | h
        · exact .inl h
        · exact .inr (List.mem_cons_of_mem _ h)
      · rcases List.mem_cons.mp h with h | h
        · exact .inr (h ▸ List.mem_cons_self)
        · exact (ih h).imp id (List.mem_cons_of_mem _)

theorem insert_wf {m : Memory} (h : m.wf) (a : Nat) (c : StackCell) : (m.insert a c).wf := by
  induction m with
  | nil => simp [Memory.insert, Memory.wf]
  | cons p rest ih =>
    obtain ⟨k, d⟩ := p
    obtain ⟨hk, hrest⟩ := List.pairwise_cons.mp h
    simp only [Memory.insert]
    split
    · rename_i hlt
      refine List.pairwise_cons.mpr ⟨fun q hq => ?_, h⟩
      rcases List.mem_cons.mp hq with rfl | hq
      · exact hlt
      · exact Nat.lt_trans hlt (hk q hq)
    · split
      · rename_i heq
        subst heq
        exact List.pairwise_cons.mpr ⟨hk, hrest⟩
      · refine List.pairwise_cons.mpr ⟨fun q hq => ?_, ih hrest⟩
        rcases mem_insert hq with rfl | hq
        · simp only; omega
        · exact hk q hq

theorem insert_within {m : Memory} {cap a : Nat} (h : m.within cap) (ha : a < cap) (c : StackCell) :
    (m.insert a c).within cap := by
  intro p hp
  rcases mem_insert hp with rfl | hp
  · exact ha
  · exact h p hp

theorem lookup_undefine (lo hi : Int) (d a : Nat) :
    (m.undefine lo hi d).lookup a =
      (m.lookup a).map fun c => if lo ≤ (a : Int) ∧ (a : Int) < hi then c.undefine d else c := by
  induction m with
  | nil => rfl
  | cons p rest ih =>
    obtain ⟨k, c⟩ := p
    simp only [undefine, List.map_cons] at ih ⊢
    by_cases hk : k = a
    · subst hk
      by_cases hin : lo ≤ (k : Int) ∧ (k : Int) < hi <;> simp [hin, lookup]
    · by_cases hin : lo ≤ (k : Int) ∧ (k : Int) < hi
      · rw [if_pos hin, lookup, if_neg hk, lookup, if_neg hk, ih]
      · rw [if_neg hin, lookup, if_neg hk, lookup, if_neg hk, ih]

/-- A cell of the memory after `undefine` is a cell of the memory before, perhaps undefined. -/
theorem mem_undefine {m : Memory} {lo hi : Int} {d : Nat} {p : Nat × StackCell}
    (h : p ∈ m.undefine lo hi d) : ∃ q ∈ m, p.1 = q.1 ∧ (p.2 = q.2 ∨ p.2 = q.2.undefine d) := by
  simp only [undefine, List.mem_map] at h
  obtain ⟨q, hq, rfl⟩ := h
  refine ⟨q, hq, ?_⟩
  split <;> simp

theorem undefine_wf {m : Memory} (h : m.wf) (lo hi : Int) (d : Nat) : (m.undefine lo hi d).wf := by
  refine List.pairwise_map.mpr (h.imp fun {p q} hpq => ?_)
  split <;> split <;> exact hpq

theorem undefine_within {m : Memory} {cap : Nat} (h : m.within cap) (lo hi : Int) (d : Nat) :
    (m.undefine lo hi d).within cap := by
  intro p hp
  obtain ⟨q, hq, heq, -⟩ := mem_undefine hp
  exact heq ▸ h q hq

end Sys2Proof.Machine.Memory
end

