-- ==== Sys2Proof/Laws/State.lean ====
section
/-! SUPPORT. One lemma for each field under each named update of the state, so that no later proof unfolds
an update. -/

namespace Sys2Proof.Machine.State

variable (s : State)

/-! ### `setPc` -/

@[simp] theorem setPc_pc (x : Word) : (s.setPc x).pc = x := rfl
@[simp] theorem setPc_sp (x : Word) : (s.setPc x).sp = s.sp := rfl
@[simp] theorem setPc_bp (x : Word) : (s.setPc x).bp = s.bp := rfl
@[simp] theorem setPc_rv (x : Word) : (s.setPc x).rv = s.rv := rfl
@[simp] theorem setPc_mem (x : Word) : (s.setPc x).mem = s.mem := rfl
@[simp] theorem setPc_out (x : Word) : (s.setPc x).out = s.out := rfl
@[simp] theorem setPc_run (x : Word) : (s.setPc x).run = s.run := rfl
@[simp] theorem setPc_err (x : Word) : (s.setPc x).err = s.err := rfl
@[simp] theorem setPc_rst (x : Word) : (s.setPc x).rst = s.rst := rfl
@[simp] theorem setPc_offer (x : Word) : (s.setPc x).offer = s.offer := rfl
@[simp] theorem setPc_imem (x : Word) : (s.setPc x).imem = s.imem := rfl
@[simp] theorem setPc_cfg (x : Word) : (s.setPc x).cfg = s.cfg := rfl
@[simp] theorem setPc_ready (x : Word) : (s.setPc x).ready = s.ready := rfl
@[simp] theorem setPc_resetDraw (x : Word) : (s.setPc x).resetDraw = s.resetDraw := rfl
@[simp] theorem setPc_nextDraw (x : Word) : (s.setPc x).nextDraw = s.nextDraw := rfl

/-! ### `setSp` -/

@[simp] theorem setSp_pc (x : Int) : (s.setSp x).pc = s.pc := rfl
@[simp] theorem setSp_sp (x : Int) : (s.setSp x).sp = wrap x := rfl
@[simp] theorem setSp_bp (x : Int) : (s.setSp x).bp = s.bp := rfl
@[simp] theorem setSp_rv (x : Int) : (s.setSp x).rv = s.rv := rfl
@[simp] theorem setSp_mem (x : Int) : (s.setSp x).mem = s.mem := rfl
@[simp] theorem setSp_out (x : Int) : (s.setSp x).out = s.out := rfl
@[simp] theorem setSp_run (x : Int) : (s.setSp x).run = s.run := rfl
@[simp] theorem setSp_err (x : Int) : (s.setSp x).err = s.err := rfl
@[simp] theorem setSp_rst (x : Int) : (s.setSp x).rst = s.rst := rfl
@[simp] theorem setSp_offer (x : Int) : (s.setSp x).offer = s.offer := rfl
@[simp] theorem setSp_imem (x : Int) : (s.setSp x).imem = s.imem := rfl
@[simp] theorem setSp_cfg (x : Int) : (s.setSp x).cfg = s.cfg := rfl
@[simp] theorem setSp_ready (x : Int) : (s.setSp x).ready = s.ready := rfl
@[simp] theorem setSp_resetDraw (x : Int) : (s.setSp x).resetDraw = s.resetDraw := rfl
@[simp] theorem setSp_nextDraw (x : Int) : (s.setSp x).nextDraw = s.nextDraw := rfl

/-! ### `setBp` -/

@[simp] theorem setBp_pc (x : Word) : (s.setBp x).pc = s.pc := rfl
@[simp] theorem setBp_sp (x : Word) : (s.setBp x).sp = s.sp := rfl
@[simp] theorem setBp_bp (x : Word) : (s.setBp x).bp = x := rfl
@[simp] theorem setBp_rv (x : Word) : (s.setBp x).rv = s.rv := rfl
@[simp] theorem setBp_mem (x : Word) : (s.setBp x).mem = s.mem := rfl
@[simp] theorem setBp_out (x : Word) : (s.setBp x).out = s.out := rfl
@[simp] theorem setBp_run (x : Word) : (s.setBp x).run = s.run := rfl
@[simp] theorem setBp_err (x : Word) : (s.setBp x).err = s.err := rfl
@[simp] theorem setBp_rst (x : Word) : (s.setBp x).rst = s.rst := rfl
@[simp] theorem setBp_offer (x : Word) : (s.setBp x).offer = s.offer := rfl
@[simp] theorem setBp_imem (x : Word) : (s.setBp x).imem = s.imem := rfl
@[simp] theorem setBp_cfg (x : Word) : (s.setBp x).cfg = s.cfg := rfl
@[simp] theorem setBp_ready (x : Word) : (s.setBp x).ready = s.ready := rfl
@[simp] theorem setBp_resetDraw (x : Word) : (s.setBp x).resetDraw = s.resetDraw := rfl
@[simp] theorem setBp_nextDraw (x : Word) : (s.setBp x).nextDraw = s.nextDraw := rfl

/-! ### `setRv` -/

@[simp] theorem setRv_pc (x : Word) : (s.setRv x).pc = s.pc := rfl
@[simp] theorem setRv_sp (x : Word) : (s.setRv x).sp = s.sp := rfl
@[simp] theorem setRv_bp (x : Word) : (s.setRv x).bp = s.bp := rfl
@[simp] theorem setRv_rv (x : Word) : (s.setRv x).rv = x := rfl
@[simp] theorem setRv_mem (x : Word) : (s.setRv x).mem = s.mem := rfl
@[simp] theorem setRv_out (x : Word) : (s.setRv x).out = s.out := rfl
@[simp] theorem setRv_run (x : Word) : (s.setRv x).run = s.run := rfl
@[simp] theorem setRv_err (x : Word) : (s.setRv x).err = s.err := rfl
@[simp] theorem setRv_rst (x : Word) : (s.setRv x).rst = s.rst := rfl
@[simp] theorem setRv_offer (x : Word) : (s.setRv x).offer = s.offer := rfl
@[simp] theorem setRv_imem (x : Word) : (s.setRv x).imem = s.imem := rfl
@[simp] theorem setRv_cfg (x : Word) : (s.setRv x).cfg = s.cfg := rfl
@[simp] theorem setRv_ready (x : Word) : (s.setRv x).ready = s.ready := rfl
@[simp] theorem setRv_resetDraw (x : Word) : (s.setRv x).resetDraw = s.resetDraw := rfl
@[simp] theorem setRv_nextDraw (x : Word) : (s.setRv x).nextDraw = s.nextDraw := rfl

/-! ### `advance` -/

@[simp] theorem advance_pc : s.advance.pc = wrap (s.pc.toInt + 1) := rfl
@[simp] theorem advance_sp : s.advance.sp = s.sp := rfl
@[simp] theorem advance_bp : s.advance.bp = s.bp := rfl
@[simp] theorem advance_rv : s.advance.rv = s.rv := rfl
@[simp] theorem advance_mem : s.advance.mem = s.mem := rfl
@[simp] theorem advance_out : s.advance.out = s.out := rfl
@[simp] theorem advance_run : s.advance.run = s.run := rfl
@[simp] theorem advance_err : s.advance.err = s.err := rfl
@[simp] theorem advance_rst : s.advance.rst = s.rst := rfl
@[simp] theorem advance_offer : s.advance.offer = s.offer := rfl
@[simp] theorem advance_imem : s.advance.imem = s.imem := rfl
@[simp] theorem advance_cfg : s.advance.cfg = s.cfg := rfl
@[simp] theorem advance_ready : s.advance.ready = s.ready := rfl
@[simp] theorem advance_resetDraw : s.advance.resetDraw = s.resetDraw := rfl
@[simp] theorem advance_nextDraw : s.advance.nextDraw = s.nextDraw := rfl

/-! ### `setCell` -/

@[simp] theorem setCell_pc (a : Nat) (v : Word) : (s.setCell a v).pc = s.pc := rfl
@[simp] theorem setCell_sp (a : Nat) (v : Word) : (s.setCell a v).sp = s.sp := rfl
@[simp] theorem setCell_bp (a : Nat) (v : Word) : (s.setCell a v).bp = s.bp := rfl
@[simp] theorem setCell_rv (a : Nat) (v : Word) : (s.setCell a v).rv = s.rv := rfl
@[simp] theorem setCell_mem (a : Nat) (v : Word) : (s.setCell a v).mem = s.mem.insert a { word := v, status := .defined } := rfl
@[simp] theorem setCell_out (a : Nat) (v : Word) : (s.setCell a v).out = s.out := rfl
@[simp] theorem setCell_run (a : Nat) (v : Word) : (s.setCell a v).run = s.run := rfl
@[simp] theorem setCell_err (a : Nat) (v : Word) : (s.setCell a v).err = s.err := rfl
@[simp] theorem setCell_rst (a : Nat) (v : Word) : (s.setCell a v).rst = s.rst := rfl
@[simp] theorem setCell_offer (a : Nat) (v : Word) : (s.setCell a v).offer = s.offer := rfl
@[simp] theorem setCell_imem (a : Nat) (v : Word) : (s.setCell a v).imem = s.imem := rfl
@[simp] theorem setCell_cfg (a : Nat) (v : Word) : (s.setCell a v).cfg = s.cfg := rfl
@[simp] theorem setCell_ready (a : Nat) (v : Word) : (s.setCell a v).ready = s.ready := rfl
@[simp] theorem setCell_resetDraw (a : Nat) (v : Word) : (s.setCell a v).resetDraw = s.resetDraw := rfl
@[simp] theorem setCell_nextDraw (a : Nat) (v : Word) : (s.setCell a v).nextDraw = s.nextDraw := rfl

/-! ### `undefineCells` -/

@[simp] theorem undefineCells_pc (lo hi : Int) : (s.undefineCells lo hi).pc = s.pc := rfl
@[simp] theorem undefineCells_sp (lo hi : Int) : (s.undefineCells lo hi).sp = s.sp := rfl
@[simp] theorem undefineCells_bp (lo hi : Int) : (s.undefineCells lo hi).bp = s.bp := rfl
@[simp] theorem undefineCells_rv (lo hi : Int) : (s.undefineCells lo hi).rv = s.rv := rfl
@[simp] theorem undefineCells_mem (lo hi : Int) : (s.undefineCells lo hi).mem = s.mem.undefine lo hi s.nextDraw := rfl
@[simp] theorem undefineCells_out (lo hi : Int) : (s.undefineCells lo hi).out = s.out := rfl
@[simp] theorem undefineCells_run (lo hi : Int) : (s.undefineCells lo hi).run = s.run := rfl
@[simp] theorem undefineCells_err (lo hi : Int) : (s.undefineCells lo hi).err = s.err := rfl
@[simp] theorem undefineCells_rst (lo hi : Int) : (s.undefineCells lo hi).rst = s.rst := rfl
@[simp] theorem undefineCells_offer (lo hi : Int) : (s.undefineCells lo hi).offer = s.offer := rfl
@[simp] theorem undefineCells_imem (lo hi : Int) : (s.undefineCells lo hi).imem = s.imem := rfl
@[simp] theorem undefineCells_cfg (lo hi : Int) : (s.undefineCells lo hi).cfg = s.cfg := rfl
@[simp] theorem undefineCells_ready (lo hi : Int) : (s.undefineCells lo hi).ready = s.ready := rfl
@[simp] theorem undefineCells_resetDraw (lo hi : Int) : (s.undefineCells lo hi).resetDraw = s.resetDraw := rfl
@[simp] theorem undefineCells_nextDraw (lo hi : Int) : (s.undefineCells lo hi).nextDraw = s.nextDraw + 1 := rfl

/-! ### `haltWith` -/

@[simp] theorem haltWith_pc (c : ErrCode) : (s.haltWith c).pc = s.pc := rfl
@[simp] theorem haltWith_sp (c : ErrCode) : (s.haltWith c).sp = s.sp := rfl
@[simp] theorem haltWith_bp (c : ErrCode) : (s.haltWith c).bp = s.bp := rfl
@[simp] theorem haltWith_rv (c : ErrCode) : (s.haltWith c).rv = s.rv := rfl
@[simp] theorem haltWith_mem (c : ErrCode) : (s.haltWith c).mem = s.mem := rfl
@[simp] theorem haltWith_out (c : ErrCode) : (s.haltWith c).out = s.out := rfl
@[simp] theorem haltWith_run (c : ErrCode) : (s.haltWith c).run = .halted := rfl
@[simp] theorem haltWith_err (c : ErrCode) : (s.haltWith c).err = c := rfl
@[simp] theorem haltWith_rst (c : ErrCode) : (s.haltWith c).rst = s.rst := rfl
@[simp] theorem haltWith_offer (c : ErrCode) : (s.haltWith c).offer = none := rfl
@[simp] theorem haltWith_imem (c : ErrCode) : (s.haltWith c).imem = s.imem := rfl
@[simp] theorem haltWith_cfg (c : ErrCode) : (s.haltWith c).cfg = s.cfg := rfl
@[simp] theorem haltWith_ready (c : ErrCode) : (s.haltWith c).ready = s.ready := rfl
@[simp] theorem haltWith_resetDraw (c : ErrCode) : (s.haltWith c).resetDraw = s.resetDraw := rfl
@[simp] theorem haltWith_nextDraw (c : ErrCode) : (s.haltWith c).nextDraw = s.nextDraw := rfl

/-! ### `raise` -/

@[simp] theorem raise_pc (e : FatalError) : (s.raise e).pc = s.pc := rfl
@[simp] theorem raise_sp (e : FatalError) : (s.raise e).sp = s.sp := rfl
@[simp] theorem raise_bp (e : FatalError) : (s.raise e).bp = s.bp := rfl
@[simp] theorem raise_rv (e : FatalError) : (s.raise e).rv = s.rv := rfl
@[simp] theorem raise_mem (e : FatalError) : (s.raise e).mem = s.mem := rfl
@[simp] theorem raise_out (e : FatalError) : (s.raise e).out = s.out := rfl
@[simp] theorem raise_run (e : FatalError) : (s.raise e).run = .halted := rfl
@[simp] theorem raise_err (e : FatalError) : (s.raise e).err = e.code := rfl
@[simp] theorem raise_rst (e : FatalError) : (s.raise e).rst = s.rst := rfl
@[simp] theorem raise_offer (e : FatalError) : (s.raise e).offer = none := rfl
@[simp] theorem raise_imem (e : FatalError) : (s.raise e).imem = s.imem := rfl
@[simp] theorem raise_cfg (e : FatalError) : (s.raise e).cfg = s.cfg := rfl
@[simp] theorem raise_ready (e : FatalError) : (s.raise e).ready = s.ready := rfl
@[simp] theorem raise_resetDraw (e : FatalError) : (s.raise e).resetDraw = s.resetDraw := rfl
@[simp] theorem raise_nextDraw (e : FatalError) : (s.raise e).nextDraw = s.nextDraw := rfl

/-! ### `accept` -/

@[simp] theorem accept_pc (e : OutEvent) : (s.accept e).pc = s.pc := rfl
@[simp] theorem accept_sp (e : OutEvent) : (s.accept e).sp = s.sp := rfl
@[simp] theorem accept_bp (e : OutEvent) : (s.accept e).bp = s.bp := rfl
@[simp] theorem accept_rv (e : OutEvent) : (s.accept e).rv = s.rv := rfl
@[simp] theorem accept_mem (e : OutEvent) : (s.accept e).mem = s.mem := rfl
@[simp] theorem accept_out (e : OutEvent) : (s.accept e).out = s.out ++ [e] := rfl
@[simp] theorem accept_run (e : OutEvent) : (s.accept e).run = s.run := rfl
@[simp] theorem accept_err (e : OutEvent) : (s.accept e).err = s.err := rfl
@[simp] theorem accept_rst (e : OutEvent) : (s.accept e).rst = s.rst := rfl
@[simp] theorem accept_offer (e : OutEvent) : (s.accept e).offer = none := rfl
@[simp] theorem accept_imem (e : OutEvent) : (s.accept e).imem = s.imem := rfl
@[simp] theorem accept_cfg (e : OutEvent) : (s.accept e).cfg = s.cfg := rfl
@[simp] theorem accept_ready (e : OutEvent) : (s.accept e).ready = s.ready.later := rfl
@[simp] theorem accept_resetDraw (e : OutEvent) : (s.accept e).resetDraw = s.resetDraw := rfl
@[simp] theorem accept_nextDraw (e : OutEvent) : (s.accept e).nextDraw = s.nextDraw := rfl

/-! ### `wait` -/

@[simp] theorem wait_pc (e : OutEvent) : (s.wait e).pc = s.pc := rfl
@[simp] theorem wait_sp (e : OutEvent) : (s.wait e).sp = s.sp := rfl
@[simp] theorem wait_bp (e : OutEvent) : (s.wait e).bp = s.bp := rfl
@[simp] theorem wait_rv (e : OutEvent) : (s.wait e).rv = s.rv := rfl
@[simp] theorem wait_mem (e : OutEvent) : (s.wait e).mem = s.mem := rfl
@[simp] theorem wait_out (e : OutEvent) : (s.wait e).out = s.out := rfl
@[simp] theorem wait_run (e : OutEvent) : (s.wait e).run = s.run := rfl
@[simp] theorem wait_err (e : OutEvent) : (s.wait e).err = s.err := rfl
@[simp] theorem wait_rst (e : OutEvent) : (s.wait e).rst = s.rst := rfl
@[simp] theorem wait_offer (e : OutEvent) : (s.wait e).offer = some e := rfl
@[simp] theorem wait_imem (e : OutEvent) : (s.wait e).imem = s.imem := rfl
@[simp] theorem wait_cfg (e : OutEvent) : (s.wait e).cfg = s.cfg := rfl
@[simp] theorem wait_ready (e : OutEvent) : (s.wait e).ready = s.ready.later := rfl
@[simp] theorem wait_resetDraw (e : OutEvent) : (s.wait e).resetDraw = s.resetDraw := rfl
@[simp] theorem wait_nextDraw (e : OutEvent) : (s.wait e).nextDraw = s.nextDraw := rfl

end Sys2Proof.Machine.State
end

