-- ==== Sys2Proof/Laws/Ops.lean ====
section
/-! SUPPORT. One lemma for each shared check and access primitive: when it answers, and with what. -/

namespace Sys2Proof.Machine

variable {s t : State} {e : FatalError}

theorem bind_eq_ok {α β : Type} {x : Except FatalError α} {f : α → Except FatalError β} {b : β} :
    x.bind f = .ok b ↔ ∃ a, x = .ok a ∧ f a = .ok b := by
  cases x <;> simp [Except.bind]

theorem bind_eq_error {α β : Type} {x : Except FatalError α} {f : α → Except FatalError β} :
    x.bind f = .error e ↔ x = .error e ∨ ∃ a, x = .ok a ∧ f a = .error e := by
  cases x <;> simp [Except.bind]

@[simp] theorem ok_bind {α β : Type} (a : α) (f : α → Except FatalError β) :
    (Except.ok a).bind f = f a := rfl

@[simp] theorem error_bind {α β : Type} (f : α → Except FatalError β) :
    (Except.error e).bind f = .error e := rfl

@[simp] theorem commit_ok : commit s (.ok t) = .next t := rfl

@[simp] theorem commit_error : commit s (.error e) = .next (s.raise e) := rfl

/-- Check-then-commit (R12): an instruction commits all its writes or none. -/
theorem commit_eq_next {r : Except FatalError State} :
    commit s r = .next t ↔ r = .ok t ∨ ∃ e, r = .error e ∧ t = s.raise e := by
  cases r <;> simp [commit, eq_comm]

theorem require_eq_ok {n : Int} {u : Unit} : require s n = .ok u ↔ n ≤ s.sp.toInt - s.bp.toInt := by
  unfold require
  split <;> simp <;> omega

theorem require_eq_error {n : Int} :
    require s n = .error e ↔ s.sp.toInt - s.bp.toInt < n ∧ e = .insufficientOperands n := by
  unfold require
  split <;> simp [*, eq_comm]

theorem room_eq_ok {k : Int} {u : Unit} : room s k = .ok u ↔ s.sp.toInt + k ≤ s.cfg.maxStackSize := by
  unfold room
  split <;> simp <;> omega

theorem room_eq_error {k : Int} :
    room s k = .error e ↔ s.cfg.maxStackSize < s.sp.toInt + k ∧ e = .stackOverflow := by
  unfold room
  split <;> simp [*, eq_comm]

theorem checkAddr_eq_ok {ea lim : Int} {u : Unit} : checkAddr ea lim = .ok u ↔ 0 ≤ ea ∧ ea < lim := by
  unfold checkAddr
  split <;> simp [*]

theorem checkAddr_eq_error {ea lim : Int} :
    checkAddr ea lim = .error e ↔ ¬ (0 ≤ ea ∧ ea < lim) ∧ e = .addressOutOfBounds ea := by
  unfold checkAddr
  split <;> simp_all [eq_comm]

/-- A read answers exactly for an existing cell that may be read, with the word the cell holds (R66). -/
theorem memRead_eq_ok {a : Int} {v : Word} :
    memRead s a = .ok v ↔ (0 ≤ a ∧ a < s.cfg.maxStackSize) ∧
      (s.cfg.uninitCheck = true → s.isDefined a.toNat = true) ∧ v = s.cellWord a.toNat := by
  unfold memRead
  by_cases h : 0 ≤ a ∧ a < s.cfg.maxStackSize
  · rw [if_pos h]
    cases s.cfg.uninitCheck <;> cases s.isDefined a.toNat <;> simp [h, eq_comm]
  · simp [h]

theorem memRead_eq_error {a : Int} :
    memRead s a = .error e ↔
      (¬ (0 ≤ a ∧ a < s.cfg.maxStackSize) ∧ e = .addressOutOfBounds a) ∨
      ((0 ≤ a ∧ a < s.cfg.maxStackSize) ∧ s.cfg.uninitCheck = true ∧ s.isDefined a.toNat = false ∧
        e = .undefinedRead a) := by
  unfold memRead
  by_cases h : 0 ≤ a ∧ a < s.cfg.maxStackSize
  · rw [if_pos h]
    cases s.cfg.uninitCheck <;> cases s.isDefined a.toNat <;> simp [h, eq_comm (b := e)]
  · rw [if_neg h]
    simp only [Except.error.injEq, h, eq_comm (b := e), not_false_eq_true, true_and, false_and, or_false]

theorem memWrite_eq_ok {a : Int} {v : Word} :
    memWrite s a v = .ok t ↔ (0 ≤ a ∧ a < s.cfg.maxStackSize) ∧ t = s.setCell a.toNat v := by
  unfold memWrite
  split <;> simp [*, eq_comm]

theorem memWrite_eq_error {a : Int} {v : Word} :
    memWrite s a v = .error e ↔ ¬ (0 ≤ a ∧ a < s.cfg.maxStackSize) ∧ e = .addressOutOfBounds a := by
  unfold memWrite
  split <;> simp_all [eq_comm]

theorem push_eq_ok {v : Word} :
    push s v = .ok t ↔ (0 ≤ s.sp.toInt ∧ s.sp.toInt < s.cfg.maxStackSize) ∧
      t = (s.setCell s.sp.toInt.toNat v).setSp (s.sp.toInt + 1) := by
  simp only [push, bind_eq_ok, memWrite_eq_ok, Except.ok.injEq, eq_comm (b := t)]
  constructor
  · rintro ⟨u, ⟨h, rfl⟩, rfl⟩; exact ⟨h, rfl⟩
  · rintro ⟨h, rfl⟩; exact ⟨_, ⟨h, rfl⟩, rfl⟩

theorem push_eq_error {v : Word} :
    push s v = .error e ↔ ¬ (0 ≤ s.sp.toInt ∧ s.sp.toInt < s.cfg.maxStackSize) ∧
      e = .addressOutOfBounds s.sp.toInt := by
  simp [push, bind_eq_error, memWrite_eq_error]

theorem roomPush_eq_ok {v : Word} :
    roomPush s v = .ok t ↔ s.sp.toInt + 1 ≤ s.cfg.maxStackSize ∧ 0 ≤ s.sp.toInt ∧
      t = (s.setCell s.sp.toInt.toNat v).setSp (s.sp.toInt + 1) := by
  simp only [roomPush, bind_eq_ok, room_eq_ok, push_eq_ok]
  constructor
  · rintro ⟨-, h, ⟨h', -⟩, rfl⟩; exact ⟨h, h', rfl⟩
  · rintro ⟨h, h', rfl⟩; exact ⟨(), h, ⟨h', by omega⟩, rfl⟩

/-- From a state with 0 ≤ sp, pushing raises StackOverflow and nothing else (R65). -/
theorem roomPush_eq_error {v : Word} (h : roomPush s v = .error e) :
    (s.cfg.maxStackSize < s.sp.toInt + 1 ∧ e = .stackOverflow) ∨
    (s.sp.toInt < 0 ∧ e = .addressOutOfBounds s.sp.toInt) := by
  simp only [roomPush, bind_eq_error, room_eq_error, room_eq_ok, push_eq_error] at h
  rcases h with h | ⟨-, h, h', rfl⟩
  · exact .inl h
  · exact .inr ⟨by omega, rfl⟩

theorem top_eq_ok {v : Word} :
    top s = .ok v ↔ 1 ≤ s.sp.toInt - s.bp.toInt ∧ memRead s (s.sp.toInt - 1) = .ok v := by
  simp [top, bind_eq_ok, require_eq_ok, State.topAddr]

theorem top_eq_error :
    top s = .error e ↔ (s.sp.toInt - s.bp.toInt < 1 ∧ e = .insufficientOperands 1) ∨
      (1 ≤ s.sp.toInt - s.bp.toInt ∧ memRead s (s.sp.toInt - 1) = .error e) := by
  simp [top, bind_eq_error, require_eq_ok, require_eq_error, State.topAddr]

end Sys2Proof.Machine
end

