-- ==== Sys2Proof/Laws/Word.lean ====
section
/-! SUPPORT. `wrap` and the signed reading of a word undo each other (00_scope.md R6, R7). -/

namespace Sys2Proof

theorem toInt_bounds (w : Word) : IsWord w.toInt := by
  have h1 := BitVec.toInt_lt (x := w)
  have h2 := BitVec.le_toInt (x := w)
  constructor <;> simp only [intMin, intMax] <;> omega

@[simp] theorem wrap_toInt (w : Word) : wrap w.toInt = w := BitVec.ofInt_toInt

/-- A word wraps to itself. -/
theorem toInt_wrap {x : Int} (h : IsWord x) : (wrap x).toInt = x := by
  obtain ⟨h1, h2⟩ := h
  simp only [intMin, intMax] at h1 h2
  simp only [wrap, BitVec.toInt_ofInt]
  rw [Int.bmod_eq_of_le (by omega) (by omega)]

theorem wrap_add (a b : Word) : wrap (a.toInt + b.toInt) = a + b := by
  simp [wrap, BitVec.ofInt_add]

theorem wrap_sub (a b : Word) : wrap (a.toInt - b.toInt) = a - b := by
  apply BitVec.eq_of_toInt_eq
  simp [wrap, BitVec.toInt_ofInt, BitVec.toInt_sub]

theorem wrap_add_one (w : Word) : wrap (w.toInt + 1) = w + 1 := wrap_add w 1

theorem wrap_sub_one (w : Word) : wrap (w.toInt - 1) = w - 1 := wrap_sub w 1

theorem wrap_sub_two (w : Word) : wrap (w.toInt - 2) = w - 2 := wrap_sub w 2

end Sys2Proof
end

