-- ==== Sys2Proof/Laws/Exec.lean ====
section
/-! SUPPORT. Every instruction is a rule that commits all or nothing; one lemma for each rule says when it
answers and with which state. -/

namespace Sys2Proof.Machine

variable {s t : State} {e : FatalError}

/-- The rule of an instruction: its checks and its writes, before they are committed. -/
def rule (i : Instr) (s : State) : Except FatalError State :=
  match i with
  | .add => binaryAlu s fun a b => narrow s.cfg (a.toInt + b.toInt)
  | .sub => binaryAlu s fun a b => narrow s.cfg (a.toInt - b.toInt)
  | .mul => binaryAlu s fun a b => narrow s.cfg (a.toInt * b.toInt)
  | .div => binaryAlu s (divide s.cfg)
  | .mod => binaryAlu s remainder
  | .less => compareAlu s fun a b => decide (a.toInt < b.toInt)
  | .leq => compareAlu s fun a b => decide (a.toInt ≤ b.toInt)
  | .eq => compareAlu s fun a b => decide (a = b)
  | .neq => compareAlu s fun a b => decide (a ≠ b)
  | .geq => compareAlu s fun a b => decide (b.toInt ≤ a.toInt)
  | .greater => compareAlu s fun a b => decide (b.toInt < a.toInt)
  | .and => compareAlu s fun a b => truthy a && truthy b
  | .or => compareAlu s fun a b => truthy a || truthy b
  | .not => (top s).bind fun a =>
      (memWrite s s.topAddr (boolWord (!truthy a))).bind fun t => .ok t.advance
  | .push imm => (roomPush s imm).bind fun t => .ok t.advance
  | .pop => (require s 1).bind fun _ => .ok (s.setSp (s.sp.toInt - 1)).advance
  | .load offset =>
      (room s 1).bind fun _ =>
      (checkAddr (s.frameAddr offset) s.sp.toInt).bind fun _ =>
      (memRead s (s.frameAddr offset)).bind fun v =>
      (push s v).bind fun t => .ok t.advance
  | .store offset =>
      (require s 1).bind fun _ =>
      (checkAddr (s.frameAddr offset) (s.sp.toInt - 1)).bind fun _ =>
      (memRead s s.topAddr).bind fun v =>
      (memWrite s (s.frameAddr offset) v).bind fun t =>
      .ok (t.setSp (s.sp.toInt - 1)).advance
  | .alloc n =>
      (allocCheck s n.toInt).bind fun _ =>
      .ok ((allocCells s n.toInt).setSp (s.sp.toInt + n.toInt)).advance
  | .frame delta => (roomPush s (s.pcPlus delta)).bind fun t => .ok t.advance
  | .unframe => (top s).bind fun r =>
      (memWrite s s.topAddr s.rv).bind fun t => .ok (((t.setRv 0).setSp (unframeSp s)).setPc r)
  | .storesp => (roomPush s s.sp).bind fun t => .ok t.advance
  | .storespoffset => (roomPush s (wrap (s.sp.toInt - s.bp.toInt))).bind fun t => .ok t.advance
  | .storestack =>
      (require s 2).bind fun _ =>
      (memRead s s.topAddr).bind fun addr =>
      (checkAddr (s.frameAddr addr) (s.sp.toInt - 2)).bind fun _ =>
      (memRead s s.belowTopAddr).bind fun v =>
      (memWrite s (s.frameAddr addr) v).bind fun t =>
      .ok (t.setSp (s.sp.toInt - 2)).advance
  | .goto target => .ok (s.setPc target)
  | .jump delta => .ok (s.setPc (s.pcPlus delta))
  | .jmpt delta => jumpWhen truthy delta s
  | .jmpf delta => jumpWhen (fun c => !truthy c) delta s
  | .printc => printTop .char s
  | .printint => printTop .int s
  | .pushstack => (roomPush s s.bp).bind fun t => .ok (t.setBp t.sp).advance
  | .popstack =>
      if s.bp.toInt < 1 then .error (.frameInvariantViolation .noEnclosingFrame)
      else
        (memRead s s.linkAddr).bind fun link =>
        (checkLink s link).bind fun _ =>
        .ok ((s.setSp s.linkAddr).setBp link).advance
  | .ret => (top s).bind fun v => .ok ((s.setSp (s.sp.toInt - 1)).setRv v).advance

theorem exec_eq_commit (i : Instr) (s : State) : exec i s = commit s (rule i s) := by
  cases i <;> rfl

/-- What executing an instruction can answer: its rule's own state, or the error state of R201. -/
theorem exec_eq_next {i : Instr} :
    exec i s = .next t ↔ rule i s = .ok t ∨ ∃ e, rule i s = .error e ∧ t = s.raise e := by
  rw [exec_eq_commit, commit_eq_next]

/-- An instruction never stops the model: it has a next state in every state. -/
theorem exec_isNext (i : Instr) (s : State) : ∃ t, exec i s = .next t := by
  rw [exec_eq_commit]
  cases rule i s <;> simp

/-! ### Operands that are there -/

/-- A readable cell inside the memory reads as its value (R66). -/
theorem memRead_readable {a : Int} (h0 : 0 ≤ a) (h1 : a < s.cfg.maxStackSize) (hr : Readable s a) :
    memRead s a = .ok (valueAt s a) :=
  memRead_eq_ok.mpr ⟨⟨h0, h1⟩, hr, rfl⟩

/-- The two operands of a binary instruction, where they are there. -/
theorem TwoOperands.memRead_eq (h : TwoOperands s) (hf : FrameOK s) :
    memRead s (s.sp.toInt - 2) = .ok (valueAt s (s.sp.toInt - 2)) ∧
    memRead s (s.sp.toInt - 1) = .ok (valueAt s (s.sp.toInt - 1)) := by
  obtain ⟨h2, hl, hr⟩ := h
  obtain ⟨-, hsp, hb, -, -⟩ := hf
  exact ⟨memRead_readable (by omega) (by omega) hl, memRead_readable (by omega) (by omega) hr⟩

/-- The one operand of an instruction, where it is there. -/
theorem OneOperand.top_eq (h : OneOperand s) (hf : FrameOK s) : top s = .ok (valueAt s (s.sp.toInt - 1)) := by
  obtain ⟨h1, hr⟩ := h
  obtain ⟨-, hsp, hb, -, -⟩ := hf
  exact top_eq_ok.mpr ⟨h1, memRead_readable (by omega) (by omega) hr⟩

/-- A written cell is the one cell that differs. -/
theorem writesCell_insert {a : Int} (v : Word) :
    WritesCell s (s.mem.insert a.toNat { word := v, status := .defined }) a v :=
  ⟨Memory.lookup_insert_self .., fun _ hb => Memory.lookup_insert_ne _ _ hb⟩

/-! ### When a rule answers -/

theorem narrow_eq_ok {c : Config} {x : Int} {r : Word} :
    narrow c x = .ok r ↔ r = wrap x ∧ (IsWord x ∨ c.overflowTrap = false) := by
  unfold narrow
  split
  · rename_i h
    exact ⟨fun h' => ⟨(Except.ok.inj h').symm, .inl h⟩, fun h' => by rw [h'.1]⟩
  · rename_i h; cases c.overflowTrap <;> simp [h, eq_comm (b := r)]

theorem narrow_eq_error {c : Config} {x : Int} :
    narrow c x = .error e ↔ e = .arithmeticError .overflow ∧ ¬ IsWord x ∧ c.overflowTrap = true := by
  unfold narrow
  split
  · rename_i h; simp [h]
  · rename_i h; cases c.overflowTrap <;> simp [h, eq_comm (b := e)]

/-- A binary instruction answers exactly when its two operands are there and its function answers; then
it has written the result in the left operand's cell (R101). -/
theorem binaryAlu_eq_ok {f : Word → Word → Except FatalError Word} :
    binaryAlu s f = .ok t ↔ 2 ≤ s.sp.toInt - s.bp.toInt ∧ ∃ a b r,
      memRead s (s.sp.toInt - 2) = .ok a ∧ memRead s (s.sp.toInt - 1) = .ok b ∧ f a b = .ok r ∧
      t = ((s.setCell (s.sp.toInt - 2).toNat r).setSp (s.sp.toInt - 1)).advance := by
  simp only [binaryAlu, bind_eq_ok, require_eq_ok, memWrite_eq_ok, Except.ok.injEq, State.belowTopAddr,
    State.topAddr]
  constructor
  · rintro ⟨-, h, a, ha, b, hb, r, hr, u, ⟨-, rfl⟩, rfl⟩
    exact ⟨h, a, b, r, ha, hb, hr, rfl⟩
  · rintro ⟨h, a, b, r, ha, hb, hr, rfl⟩
    exact ⟨(), h, a, ha, b, hb, r, hr, _, ⟨(memRead_eq_ok.mp ha).1, rfl⟩, rfl⟩

/-- Where a binary instruction raises: too few operands, an operand that cannot be read, or its function,
in that order (R102, R208). -/
theorem binaryAlu_eq_error {f : Word → Word → Except FatalError Word} :
    binaryAlu s f = .error e ↔
      (s.sp.toInt - s.bp.toInt < 2 ∧ e = .insufficientOperands 2) ∨
      (2 ≤ s.sp.toInt - s.bp.toInt ∧
        (memRead s (s.sp.toInt - 2) = .error e ∨ ∃ a, memRead s (s.sp.toInt - 2) = .ok a ∧
          (memRead s (s.sp.toInt - 1) = .error e ∨ ∃ b, memRead s (s.sp.toInt - 1) = .ok b ∧
            f a b = .error e))) := by
  simp only [binaryAlu, bind_eq_error, require_eq_error, require_eq_ok, memWrite_eq_error, State.belowTopAddr,
    State.topAddr, reduceCtorEq, exists_const, exists_false, and_false, or_false]
  constructor
  · rintro (h | ⟨h, h' | ⟨a, ha, h' | ⟨b, hb, h' | ⟨r, hr, h', -⟩⟩⟩⟩)
    · exact .inl h
    · exact .inr ⟨h, .inl h'⟩
    · exact .inr ⟨h, .inr ⟨a, ha, .inl h'⟩⟩
    · exact .inr ⟨h, .inr ⟨a, ha, .inr ⟨b, hb, h'⟩⟩⟩
    · exact absurd (memRead_eq_ok.mp ha).1 h'
  · rintro (h | ⟨h, h' | ⟨a, ha, h' | ⟨b, hb, h'⟩⟩⟩)
    · exact .inl h
    · exact .inr ⟨h, .inl h'⟩
    · exact .inr ⟨h, .inr ⟨a, ha, .inl h'⟩⟩
    · exact .inr ⟨h, .inr ⟨a, ha, .inr ⟨b, hb, .inl h'⟩⟩⟩

theorem compareAlu_eq_ok {f : Word → Word → Bool} :
    compareAlu s f = .ok t ↔ 2 ≤ s.sp.toInt - s.bp.toInt ∧ ∃ a b,
      memRead s (s.sp.toInt - 2) = .ok a ∧ memRead s (s.sp.toInt - 1) = .ok b ∧
      t = ((s.setCell (s.sp.toInt - 2).toNat (boolWord (f a b))).setSp (s.sp.toInt - 1)).advance := by
  simp only [compareAlu, binaryAlu_eq_ok, Except.ok.injEq]
  constructor
  · rintro ⟨h, a, b, r, ha, hb, rfl, rfl⟩; exact ⟨h, a, b, ha, hb, rfl⟩
  · rintro ⟨h, a, b, ha, hb, rfl⟩; exact ⟨h, a, b, _, ha, hb, rfl, rfl⟩

/-- A conditional jump pops its condition and then takes the jump or falls through (R152, R153). -/
theorem jumpWhen_eq_ok {p : Word → Bool} {delta : Word} :
    jumpWhen p delta s = .ok t ↔ ∃ c, top s = .ok c ∧
      t = if p c then (s.setSp (s.sp.toInt - 1)).setPc (s.pcPlus delta)
        else (s.setSp (s.sp.toInt - 1)).advance := by
  simp [jumpWhen, bind_eq_ok, eq_comm (b := t)]

/-- A print either completes, when the host is ready, or waits (R79, R241). -/
theorem printTop_eq_ok {k : OutKind} :
    printTop k s = .ok t ↔ ∃ v, top s = .ok v ∧
      t = if s.ready.now then ((s.accept ⟨k, v⟩).setSp (s.sp.toInt - 1)).advance else s.wait ⟨k, v⟩ := by
  simp [printTop, bind_eq_ok, emit, eq_comm (b := t)]

theorem printTop_eq_error {k : OutKind} : printTop k s = .error e ↔ top s = .error e := by
  simp [printTop, bind_eq_error]

theorem jumpWhen_eq_error {p : Word → Bool} {delta : Word} :
    jumpWhen p delta s = .error e ↔ top s = .error e := by
  simp [jumpWhen, bind_eq_error]

theorem checkLink_eq_ok {link : Word} {u : Unit} :
    checkLink s link = .ok u ↔ 0 ≤ link.toInt ∧ link.toInt ≤ s.bp.toInt - 1 := by
  unfold checkLink State.linkAddr
  split <;> rename_i h
  · exact ⟨fun _ => h, fun _ => rfl⟩
  · exact ⟨fun h' => by simp at h', fun h' => absurd h' h⟩

theorem checkLink_eq_error {link : Word} :
    checkLink s link = .error e ↔ ¬ (0 ≤ link.toInt ∧ link.toInt ≤ s.bp.toInt - 1) ∧
      e = .frameInvariantViolation .badSavedBp := by
  unfold checkLink State.linkAddr
  split <;> rename_i h
  · exact ⟨fun h' => by simp at h', fun h' => absurd h h'.1⟩
  · exact ⟨fun h' => ⟨h, (Except.error.inj h').symm⟩, fun h' => by rw [h'.2]⟩

/-! ### What a rule that answers can have done -/

/-- The shapes of a completed instruction: which cells and registers it wrote, and under which checks. Every
invariant of the machine is a case analysis on these. -/
inductive Shape (s : State) : Instr → State → Prop where
  | binary {i : Instr} (hi : i ∈ binaryInstrs) (r : Word) (h : 2 ≤ s.sp.toInt - s.bp.toInt)
      (ha : 0 ≤ s.sp.toInt - 2 ∧ s.sp.toInt - 2 < s.cfg.maxStackSize) :
      Shape s i ((s.setCell (s.sp.toInt - 2).toNat r).setSp (s.sp.toInt - 1)).advance
  | not (r : Word) (h : 1 ≤ s.sp.toInt - s.bp.toInt)
      (ha : 0 ≤ s.sp.toInt - 1 ∧ s.sp.toInt - 1 < s.cfg.maxStackSize) :
      Shape s .not (s.setCell (s.sp.toInt - 1).toNat r).advance
  | push {i : Instr} (v : Word)
      (hi : i = .push v ∨ (∃ off, i = .load off) ∨ (∃ d, i = .frame d) ∨ i = .storesp ∨ i = .storespoffset)
      (hr : s.sp.toInt + 1 ≤ s.cfg.maxStackSize) (h0 : 0 ≤ s.sp.toInt) :
      Shape s i ((s.setCell s.sp.toInt.toNat v).setSp (s.sp.toInt + 1)).advance
  | pop (h : 1 ≤ s.sp.toInt - s.bp.toInt) : Shape s .pop (s.setSp (s.sp.toInt - 1)).advance
  | store (off v : Word) (h : 1 ≤ s.sp.toInt - s.bp.toInt)
      (hw : 0 ≤ s.frameAddr off ∧ s.frameAddr off < s.sp.toInt - 1)
      (ha : 0 ≤ s.frameAddr off ∧ s.frameAddr off < s.cfg.maxStackSize) :
      Shape s (.store off) ((s.setCell (s.frameAddr off).toNat v).setSp (s.sp.toInt - 1)).advance
  | allocUp (n : Word) (hn : 0 < n.toInt) (hr : s.sp.toInt + n.toInt ≤ s.cfg.maxStackSize) :
      Shape s (.alloc n)
        ((s.undefineCells s.sp.toInt (s.sp.toInt + n.toInt)).setSp (s.sp.toInt + n.toInt)).advance
  | allocDown (n : Word) (hn : n.toInt ≤ 0) (h : n.toInt < 0 → -n.toInt ≤ s.sp.toInt - s.bp.toInt) :
      Shape s (.alloc n) (s.setSp (s.sp.toInt + n.toInt)).advance
  | unframe (r : Word) (h : 1 ≤ s.sp.toInt - s.bp.toInt)
      (ha : 0 ≤ s.sp.toInt - 1 ∧ s.sp.toInt - 1 < s.cfg.maxStackSize) :
      Shape s .unframe
        ((((s.setCell (s.sp.toInt - 1).toNat s.rv).setRv 0).setSp (unframeSp s)).setPc r)
  | storestack (addr v : Word) (h : 2 ≤ s.sp.toInt - s.bp.toInt)
      (hw : 0 ≤ s.frameAddr addr ∧ s.frameAddr addr < s.sp.toInt - 2)
      (ha : 0 ≤ s.frameAddr addr ∧ s.frameAddr addr < s.cfg.maxStackSize) :
      Shape s .storestack ((s.setCell (s.frameAddr addr).toNat v).setSp (s.sp.toInt - 2)).advance
  | goto (x : Word) : Shape s (.goto x) (s.setPc x)
  | jump (d : Word) : Shape s (.jump d) (s.setPc (s.pcPlus d))
  | taken {i : Instr} (d : Word) (hi : i = .jmpt d ∨ i = .jmpf d) (h : 1 ≤ s.sp.toInt - s.bp.toInt) :
      Shape s i ((s.setSp (s.sp.toInt - 1)).setPc (s.pcPlus d))
  | notTaken {i : Instr} (d : Word) (hi : i = .jmpt d ∨ i = .jmpf d) (h : 1 ≤ s.sp.toInt - s.bp.toInt) :
      Shape s i (s.setSp (s.sp.toInt - 1)).advance
  | printed {i : Instr} (e : OutEvent) (hi : (i = .printc ∧ e.kind = .char) ∨ (i = .printint ∧ e.kind = .int))
      (h : top s = .ok e.value) (hr : s.ready.now = true) :
      Shape s i ((s.accept e).setSp (s.sp.toInt - 1)).advance
  | waits {i : Instr} (e : OutEvent) (hi : (i = .printc ∧ e.kind = .char) ∨ (i = .printint ∧ e.kind = .int))
      (h : top s = .ok e.value) (hr : s.ready.now = false) : Shape s i (s.wait e)
  | pushstack (hr : s.sp.toInt + 1 ≤ s.cfg.maxStackSize) (h0 : 0 ≤ s.sp.toInt) :
      Shape s .pushstack
        (((s.setCell s.sp.toInt.toNat s.bp).setSp (s.sp.toInt + 1)).setBp (wrap (s.sp.toInt + 1))).advance
  | popstack (link : Word) (hb : 1 ≤ s.bp.toInt) (hl : 0 ≤ link.toInt ∧ link.toInt ≤ s.bp.toInt - 1) :
      Shape s .popstack ((s.setSp (s.bp.toInt - 1)).setBp link).advance
  | ret (v : Word) (h : 1 ≤ s.sp.toInt - s.bp.toInt) :
      Shape s .ret ((s.setSp (s.sp.toInt - 1)).setRv v).advance

theorem Shape.of_binary {i : Instr} {f : Word → Word → Except FatalError Word} (hi : i ∈ binaryInstrs)
    (h : binaryAlu s f = .ok t) : Shape s i t := by
  obtain ⟨h2, a, b, r, ha, -, -, rfl⟩ := binaryAlu_eq_ok.mp h
  exact .binary hi r h2 (memRead_eq_ok.mp ha).1

theorem Shape.of_push {i : Instr} {v : Word}
    (hi : i = .push v ∨ (∃ off, i = .load off) ∨ (∃ d, i = .frame d) ∨ i = .storesp ∨ i = .storespoffset)
    (h : (roomPush s v).bind (fun u => Except.ok u.advance) = .ok t) : Shape s i t := by
  obtain ⟨u, hu, hut⟩ := bind_eq_ok.mp h
  obtain ⟨hr, h0, rfl⟩ := roomPush_eq_ok.mp hu
  exact (Except.ok.inj hut) ▸ .push v hi hr h0

theorem Shape.of_jumpWhen {i : Instr} {p : Word → Bool} {d : Word} (hi : i = .jmpt d ∨ i = .jmpf d)
    (h : jumpWhen p d s = .ok t) : Shape s i t := by
  obtain ⟨c, hc, rfl⟩ := jumpWhen_eq_ok.mp h
  have h1 := (top_eq_ok.mp hc).1
  cases p c
  · exact .notTaken d hi h1
  · exact .taken d hi h1

theorem Shape.of_printTop {i : Instr} {k : OutKind}
    (hi : (i = .printc ∧ k = .char) ∨ (i = .printint ∧ k = .int)) (h : printTop k s = .ok t) :
    Shape s i t := by
  obtain ⟨v, hv, rfl⟩ := printTop_eq_ok.mp h
  cases hr : s.ready.now
  · exact .waits ⟨k, v⟩ hi hv hr
  · exact .printed ⟨k, v⟩ hi hv hr

/-- Whatever a rule answers has one of the shapes. -/
theorem rule_shape {i : Instr} (h : rule i s = .ok t) : Shape s i t := by
  cases i with
  | add | sub | mul | div | mod => exact .of_binary (by decide) h
  | less | leq | eq | neq | geq | greater => exact .of_binary (by decide) h
  | and | or => exact .of_binary (by decide) h
  | not =>
    simp only [rule, bind_eq_ok, top_eq_ok, memWrite_eq_ok, Except.ok.injEq, State.topAddr] at h
    obtain ⟨a, ⟨h1, -⟩, u, ⟨hu, rfl⟩, rfl⟩ := h
    exact .not _ h1 hu
  | push imm => exact .of_push (.inl rfl) h
  | pop =>
    simp only [rule, bind_eq_ok, require_eq_ok, Except.ok.injEq] at h
    obtain ⟨-, h1, rfl⟩ := h
    exact .pop h1
  | load off =>
    simp only [rule, bind_eq_ok, room_eq_ok, push_eq_ok, Except.ok.injEq] at h
    obtain ⟨-, hr, -, -, v, -, u, ⟨h0, rfl⟩, rfl⟩ := h
    exact .push v (.inr (.inl ⟨off, rfl⟩)) hr h0.1
  | store off =>
    simp only [rule, bind_eq_ok, require_eq_ok, checkAddr_eq_ok, memWrite_eq_ok, Except.ok.injEq] at h
    obtain ⟨-, h1, -, hw, v, -, u, ⟨ha, rfl⟩, rfl⟩ := h
    exact .store off v h1 hw ha
  | alloc n =>
    simp only [rule, bind_eq_ok, Except.ok.injEq] at h
    obtain ⟨u, hc, rfl⟩ := h
    simp only [allocCheck, allocCells] at hc ⊢
    by_cases hn : n.toInt > 0
    · rw [if_pos hn] at hc ⊢
      exact .allocUp n hn (room_eq_ok.mp hc)
    · rw [if_neg hn] at hc ⊢
      refine .allocDown n (by omega) fun hneg => ?_
      rw [if_pos hneg] at hc
      exact require_eq_ok.mp hc
  | frame d => exact .of_push (.inr (.inr (.inl ⟨d, rfl⟩))) h
  | unframe =>
    simp only [rule, bind_eq_ok, top_eq_ok, memWrite_eq_ok, Except.ok.injEq, State.topAddr] at h
    obtain ⟨r, ⟨h1, -⟩, u, ⟨hu, rfl⟩, rfl⟩ := h
    exact .unframe r h1 hu
  | storesp => exact .of_push (.inr (.inr (.inr (.inl rfl)))) h
  | storespoffset => exact .of_push (.inr (.inr (.inr (.inr rfl)))) h
  | storestack =>
    simp only [rule, bind_eq_ok, require_eq_ok, checkAddr_eq_ok, memWrite_eq_ok, Except.ok.injEq] at h
    obtain ⟨-, h2, addr, -, -, hw, v, -, u, ⟨ha, rfl⟩, rfl⟩ := h
    exact .storestack addr v h2 hw ha
  | goto x => exact Except.ok.inj h ▸ .goto x
  | jump d => exact Except.ok.inj h ▸ .jump d
  | jmpt d => exact .of_jumpWhen (.inl rfl) h
  | jmpf d => exact .of_jumpWhen (.inr rfl) h
  | printc => exact .of_printTop (.inl ⟨rfl, rfl⟩) h
  | printint => exact .of_printTop (.inr ⟨rfl, rfl⟩) h
  | pushstack =>
    simp only [rule, bind_eq_ok, roomPush_eq_ok, Except.ok.injEq] at h
    obtain ⟨u, ⟨hr, h0, rfl⟩, rfl⟩ := h
    exact .pushstack hr h0
  | popstack =>
    simp only [rule] at h
    split at h
    · simp at h
    · rename_i hb
      simp only [bind_eq_ok, checkLink_eq_ok, Except.ok.injEq, State.linkAddr] at h
      obtain ⟨link, -, -, hl, rfl⟩ := h
      exact .popstack link (by omega) hl
  | ret =>
    simp only [rule, bind_eq_ok, top_eq_ok, Except.ok.injEq] at h
    obtain ⟨v, ⟨h1, -⟩, rfl⟩ := h
    exact .ret v h1

/-! ### Lookups after an instruction's own updates -/

@[simp] theorem State.cellAt_setCell_self (a : Nat) (v : Word) :
    (s.setCell a v).cellAt a = some { word := v, status := .defined } :=
  Memory.lookup_insert_self ..

theorem State.cellAt_setCell_ne {a b : Nat} (v : Word) (h : b ≠ a) : (s.setCell a v).cellAt b = s.cellAt b :=
  Memory.lookup_insert_ne _ _ h

end Sys2Proof.Machine
end

