-- ==== Sys2Proof/Laws/PerInstr.lean ====
section
/-! SUPPORT. A fact about every instruction as syntax: its encoded slot is one the loader may write
(30_encoding.md R92 to R95). It compares two transcriptions of the table of R95. -/

namespace Sys2Proof.Laws.EncodedSlot

/-- The slot of the instruction is well formed, and the arity table gives its op the arity it has. -/
def Statement (i : Instr) : Prop :=
  (encode i).wellFormed = true ∧ opcodeArity i.ordinal = some i.operand.toList.length

theorem add : Statement .add := ⟨rfl, rfl⟩
theorem sub : Statement .sub := ⟨rfl, rfl⟩
theorem mul : Statement .mul := ⟨rfl, rfl⟩
theorem div : Statement .div := ⟨rfl, rfl⟩
theorem mod : Statement .mod := ⟨rfl, rfl⟩
theorem less : Statement .less := ⟨rfl, rfl⟩
theorem leq : Statement .leq := ⟨rfl, rfl⟩
theorem eq : Statement .eq := ⟨rfl, rfl⟩
theorem neq : Statement .neq := ⟨rfl, rfl⟩
theorem geq : Statement .geq := ⟨rfl, rfl⟩
theorem greater : Statement .greater := ⟨rfl, rfl⟩
theorem and : Statement .and := ⟨rfl, rfl⟩
theorem or : Statement .or := ⟨rfl, rfl⟩
theorem not : Statement .not := ⟨rfl, rfl⟩
theorem push (imm : Word) : Statement (.push imm) := ⟨rfl, rfl⟩
theorem pop : Statement .pop := ⟨rfl, rfl⟩
theorem load (offset : Word) : Statement (.load offset) := ⟨rfl, rfl⟩
theorem store (offset : Word) : Statement (.store offset) := ⟨rfl, rfl⟩
theorem alloc (n : Word) : Statement (.alloc n) := ⟨rfl, rfl⟩
theorem frame (delta : Word) : Statement (.frame delta) := ⟨rfl, rfl⟩
theorem unframe : Statement .unframe := ⟨rfl, rfl⟩
theorem storesp : Statement .storesp := ⟨rfl, rfl⟩
theorem storespoffset : Statement .storespoffset := ⟨rfl, rfl⟩
theorem storestack : Statement .storestack := ⟨rfl, rfl⟩
theorem goto (target : Word) : Statement (.goto target) := ⟨rfl, rfl⟩
theorem jump (delta : Word) : Statement (.jump delta) := ⟨rfl, rfl⟩
theorem jmpt (delta : Word) : Statement (.jmpt delta) := ⟨rfl, rfl⟩
theorem jmpf (delta : Word) : Statement (.jmpf delta) := ⟨rfl, rfl⟩
theorem printc : Statement .printc := ⟨rfl, rfl⟩
theorem printint : Statement .printint := ⟨rfl, rfl⟩
theorem pushstack : Statement .pushstack := ⟨rfl, rfl⟩
theorem popstack : Statement .popstack := ⟨rfl, rfl⟩
theorem ret : Statement .ret := ⟨rfl, rfl⟩

end Sys2Proof.Laws.EncodedSlot
end

