-- ==== Sys2Proof/Laws/Step.lean ====
section
/-! SUPPORT. What a step can do (60_exceptions.md R203): one inversion lemma for the front end and one for
the step. -/

namespace Sys2Proof.Machine

variable {s t : State}

/-- The front end hands over an instruction exactly when every pre-dispatch check has passed and the slot at
pc decodes to it. -/
theorem frontEnd_eq_inr {i : Instr} :
    frontEnd s = .inr i ↔ s.rst = false ∧ s.run = .running ∧ FrameOK s ∧ 0 ≤ s.pc.toInt ∧
      s.pc.toInt < s.progLen ∧ ∃ sl, s.imem[s.pc.toInt.toNat]? = some sl ∧ decode sl = .ok i := by
  unfold frontEnd
  cases hrst : s.rst
  · cases hrun : s.run
    · simp only [Bool.false_eq_true, if_false, reduceCtorEq, true_and]
      by_cases hf : FrameOK s
      · rw [if_neg (not_not.mpr hf)]
        by_cases hN : s.pc.toInt = s.progLen
        · rw [if_pos hN]
          simp only [reduceCtorEq, false_iff]
          rintro ⟨-, -, h, -⟩
          omega
        · rw [if_neg hN]
          by_cases hb : s.pc.toInt < 0 ∨ s.pc.toInt > s.progLen
          · rw [if_pos hb]
            simp only [reduceCtorEq, false_iff]
            rintro ⟨-, h, h', -⟩
            omega
          · rw [if_neg hb]
            have h0 : 0 ≤ s.pc.toInt := by omega
            have h1 : s.pc.toInt < s.progLen := by omega
            simp only [dispatch, fetch, if_pos h0]
            cases hsl : s.imem[s.pc.toInt.toNat]? with
            | none => simp
            | some sl =>
              cases hd : decode sl with
              | ok j => simp only [Sum.inr.injEq, h0, h1, hd, Option.some.injEq, exists_eq_left', Except.ok.injEq,
                  true_and, and_iff_right hf]
              | error e => cases e; simp [hd]
      · rw [if_pos hf]
        simp [hf]
    · simp
  · simp

/-- Every case of a step that answers a next state. -/
inductive StepCase (s t : State) : Prop where
  /-- The pre-dispatch frame check failed (R205). -/
  | frameCheck (h : ¬ FrameOK s) (ht : t = s.raise (.frameInvariantViolation .invariant))
  /-- The normal end (R206). -/
  | finish (hf : FrameOK s) (h : s.pc.toInt = s.progLen) (ht : t = s.haltWith .none)
  /-- pc out of bounds (R206). -/
  | pcBounds (hf : FrameOK s) (h : s.pc.toInt < 0 ∨ s.pc.toInt > s.progLen)
      (ht : t = s.raise (.programCounterOutOfBounds s.pc.toInt))
  /-- An op outside the map (R207). -/
  | unknownOp (hf : FrameOK s) (op : Byte) (ht : t = s.raise (.unknownOpcode op))
  /-- The instruction's own rule ran to its end. -/
  | completed (i : Instr) (hi : frontEnd s = .inr i) (ht : rule i s = .ok t)
  /-- The instruction's own rule raised. -/
  | raised (i : Instr) (hi : frontEnd s = .inr i) (e : FatalError) (he : rule i s = .error e)
      (ht : t = s.raise e)

/-- The slot at a pc inside the program exists. -/
theorem fetch_isSome (h0 : 0 ≤ s.pc.toInt) (h1 : s.pc.toInt < s.progLen) : ∃ sl, fetch s = some sl := by
  unfold State.progLen at h1
  have h : s.pc.toInt.toNat < s.imem.length := by omega
  exact ⟨s.imem[s.pc.toInt.toNat], by simp [fetch, h0, h]⟩

/-- What a step can do: it runs only while released and RUNNING, and one of the cases of R203 holds. -/
theorem step_eq_next (h : step s = .next t) : s.rst = false ∧ s.run = .running ∧ StepCase s t := by
  cases hfe : frontEnd s with
  | inr i =>
    have hp := frontEnd_eq_inr.mp hfe
    refine ⟨hp.1, hp.2.1, ?_⟩
    rw [step, hfe] at h
    rcases exec_eq_next.mp h with h | ⟨e, he, ht⟩
    · exact .completed i hfe h
    · exact .raised i hfe e he ht
  | inl o =>
    have ho : o = .next t := by simpa [step, hfe] using h
    subst ho
    unfold frontEnd at hfe
    cases hrst : s.rst
    · cases hrun : s.run
      · refine ⟨rfl, rfl, ?_⟩
        simp only [hrst, hrun, Bool.false_eq_true, if_false, reduceCtorEq] at hfe
        by_cases hf : FrameOK s
        · rw [if_neg (not_not.mpr hf)] at hfe
          by_cases hN : s.pc.toInt = s.progLen
          · rw [if_pos hN] at hfe
            exact .finish hf hN (by simpa using hfe.symm)
          · rw [if_neg hN] at hfe
            by_cases hb : s.pc.toInt < 0 ∨ s.pc.toInt > s.progLen
            · rw [if_pos hb] at hfe
              exact .pcBounds hf hb (by simpa using hfe.symm)
            · rw [if_neg hb] at hfe
              obtain ⟨sl, hsl⟩ := fetch_isSome (s := s) (by omega) (by omega)
              simp only [dispatch, hsl] at hfe
              cases hd : decode sl with
              | ok j => simp [hd] at hfe
              | error e =>
                cases e with
                | unknownOpcode op =>
                  simp only [hd, Sum.inl.injEq, Host.Outcome.next.injEq] at hfe
                  exact .unknownOp hf op hfe.symm
        · rw [if_pos hf] at hfe
          exact .frameCheck hf (by simpa using hfe.symm)
      · simp [hrst, hrun] at hfe
    · simp [hrst] at hfe

/-- The slot placed at an index is the one fetched there. -/
theorem placeSlot_getElem? (prog : List Slot) (k : Nat) (sl : Slot) : (placeSlot prog k sl)[k]? = some sl := by
  have h : (prog.take k ++ List.replicate (k - prog.length) sl).length = k := by
    simp only [List.length_append, List.length_take, List.length_replicate]
    omega
  rw [placeSlot, List.getElem?_append_right (by omega), h]
  simp

/-- A word placed where the machine fetches is the instruction the next step executes. -/
theorem step_withFetchWord {i : Instr} {nbits w : Nat} (hr : Running s) (hf : FrameOK s) (h0 : 0 ≤ s.pc.toInt)
    (hd : decodeTableWord nbits w = some i) :
    step (s.withFetchWord nbits w) = exec i (s.withFetchWord nbits w) := by
  have hsl := placeSlot_getElem? s.imem s.pc.toInt.toNat (tableSlot nbits w)
  have hlen := (List.getElem?_eq_some_iff.mp hsl).1
  have hdec : decode (tableSlot nbits w) = .ok i := by
    unfold decodeTableWord at hd
    cases h : decode (tableSlot nbits w) <;> simp_all
  have hfe : frontEnd (s.withFetchWord nbits w) = .inr i :=
    frontEnd_eq_inr.mpr ⟨hr.1, hr.2, hf, h0, by
      simp only [State.progLen, State.withFetchWord]
      omega, _, hsl, hdec⟩
  rw [step, hfe]

/-- The two instructions that print, and the kind of each. -/
theorem printKind_eq_some {i : Instr} {k : OutKind} :
    printKind i = some k ↔ (i = .printc ∧ k = .char) ∨ (i = .printint ∧ k = .int) := by
  cases i <;> simp [printKind, eq_comm]

/-- A step offers an event exactly when it dispatches the print of that kind with the word readable on top. -/
theorem offering_eq_some {e : OutEvent} :
    s.offering = some e ↔ ∃ i, frontEnd s = .inr i ∧ printKind i = some e.kind ∧ top s = .ok e.value := by
  unfold State.offering
  cases hfe : frontEnd s with
  | inl o => simp
  | inr i =>
    obtain ⟨k, v⟩ := e
    cases hk : printKind i <;> cases ht : top s <;> simp [hk]

/-- A pending event (R79) is the one the next step offers. -/
theorem OfferPending.offering_eq {e : OutEvent} (h : OfferPending s e) : s.offering = some e := by
  obtain ⟨-, h1, hv, hk⟩ := h
  have hfe : ∃ i, frontEnd s = .inr i ∧ printKind i = some e.kind := by
    rcases hk with ⟨hk, hfe⟩ | ⟨hk, hfe⟩
    · exact ⟨_, hfe, by rw [hk]; rfl⟩
    · exact ⟨_, hfe, by rw [hk]; rfl⟩
  obtain ⟨i, hfe, hk⟩ := hfe
  exact offering_eq_some.mpr ⟨i, hfe, hk, hv ▸ h1.top_eq (frontEnd_eq_inr.mp hfe).2.2.1⟩

end Sys2Proof.Machine
end

