-- ==== Sys2Proof/Tests/Slice0.lean ====
section
/-! SUPPORT. Small tests: what well-formedness refuses, words written out from the spec's encoding, one step
of each instruction with the results of 95_test_vectors.md, and a witness for the hypotheses of every
statement. -/

namespace Sys2Proof.Tests

open Sys2Proof.Machine

/-! ### Helpers -/

/-- The parameters of 95_test_vectors.md with a capacity. -/
def small (capacity : Nat) : Config := { Config.standard with maxStackSize := capacity, imemDepth := 8 }

/-- Defined cells from index `k` on. -/
def cellsFrom (k : Nat) : List Word → Memory
  | [] => []
  | w :: ws => (k, { word := w, status := .defined }) :: cellsFrom (k + 1) ws

/-- A state right after reset but for a capacity, a base pointer and a stack picture. -/
def stk (capacity : Nat) (bp : Word) (ws : List Word) : State :=
  { State.reset with
    cfg := small capacity, bp := bp, sp := BitVec.ofNat 32 ws.length, mem := cellsFrom 0 ws }

/-- The same, with a program. -/
def running (capacity : Nat) (bp : Word) (ws : List Word) (prog : List Instr) : State :=
  { stk capacity bp ws with imem := prog.map encode }

/-- Overflow traps on. -/
def trapping (s : State) : State := { s with cfg := { s.cfg with overflowTrap := true } }

/-- Executing gives a next state of which `p` holds. -/
def gives (i : Instr) (s : State) (p : State → Bool) : Bool :=
  match exec i s with
  | .next t => p t
  | _ => false

/-- One step gives a next state of which `p` holds. -/
def steps (s : State) (p : State → Bool) : Bool :=
  match step s with
  | .next t => p t
  | _ => false

/-- Cell `a` is defined and holds `w`. -/
def holds (t : State) (a : Nat) (w : Word) : Bool := decide (t.cellAt a = some { word := w, status := .defined })

/-- The run has ended with an error of the given code and STATUS word, and the registers and cells are those
of `s`. -/
def failed (s : State) (code : ErrCode) (status : Word) (t : State) : Bool :=
  decide (t.run = .halted ∧ t.err = code ∧ statusWord t = status ∧ t.pc = s.pc ∧ t.sp = s.sp ∧ t.bp = s.bp ∧
    t.rv = s.rv ∧ t.mem = s.mem ∧ t.out = s.out)

/-! ### Well-formedness refuses -/

theorem test_wf_op : Slot.wellFormed { op := 33, a := 0, b := 0 } = false := by decide

theorem test_wf_field_b : Slot.wellFormed { op := 14, a := 3, b := 1 } = false := by decide

theorem test_wf_field_a : Slot.wellFormed { op := 0, a := 1, b := 0 } = false := by decide

theorem test_wf_program_length :
    programWellFormed { small 4 with imemDepth := 1 } [encode .pop, encode .pop] = false := by decide

theorem test_wf_program_slot : programWellFormed (small 4) [{ op := 33, a := 0, b := 0 }] = false := by decide

theorem test_wf_capacity : ¬ (small 0).WellFormed ∧ ¬ (small (2 ^ 31)).WellFormed := by decide

theorem test_wf_depth : ¬ ({ small 4 with imemDepth := 2 ^ 31 } : Config).WellFormed := by decide

theorem test_wf_accepts : (small 1).WellFormed ∧ (small (2 ^ 31 - 1)).WellFormed ∧
    programWellFormed (small 4) [encode (.push 3), encode .add] = true := by decide

/-! ### Decoding: words written out from R92 and R95 (some in V6) -/

theorem test_decode_alu :
    decodeWord 0x00_00000000_00000000 = .ok .add ∧ decodeWord 0x01_00000000_00000000 = .ok .sub ∧
    decodeWord 0x02_00000000_00000000 = .ok .mul ∧ decodeWord 0x03_00000000_00000000 = .ok .div ∧
    decodeWord 0x04_00000000_00000000 = .ok .mod ∧ decodeWord 0x05_00000000_00000000 = .ok .less ∧
    decodeWord 0x06_00000000_00000000 = .ok .leq ∧ decodeWord 0x07_00000000_00000000 = .ok .eq ∧
    decodeWord 0x08_00000000_00000000 = .ok .neq ∧ decodeWord 0x09_00000000_00000000 = .ok .geq ∧
    decodeWord 0x0A_00000000_00000000 = .ok .greater ∧ decodeWord 0x0B_00000000_00000000 = .ok .and ∧
    decodeWord 0x0C_00000000_00000000 = .ok .or ∧ decodeWord 0x0D_00000000_00000000 = .ok .not := by
  decide

theorem test_decode_stack :
    decodeWord 0x0E_FFFFFFFD_00000000 = .ok (.push (-3)) ∧ decodeWord 0x0F_00000000_00000000 = .ok .pop ∧
    decodeWord 0x10_FFFFFFFC_00000000 = .ok (.load (-4)) ∧
    decodeWord 0x11_00000001_00000000 = .ok (.store 1) ∧
    decodeWord 0x12_80000000_00000000 = .ok (.alloc 0x80000000) ∧
    decodeWord 0x15_00000000_00000000 = .ok .storesp ∧
    decodeWord 0x16_00000000_00000000 = .ok .storespoffset ∧
    decodeWord 0x17_00000000_00000000 = .ok .storestack := by decide

theorem test_decode_control :
    decodeWord 0x18_00000007_00000000 = .ok (.goto 7) ∧
    decodeWord 0x19_FFFFFFFF_00000000 = .ok (.jump (-1)) ∧
    decodeWord 0x1A_00000003_00000000 = .ok (.jmpt 3) ∧
    decodeWord 0x1B_00000008_00000000 = .ok (.jmpf 8) := by decide

theorem test_decode_frames :
    decodeWord 0x13_00000005_00000000 = .ok (.frame 5) ∧ decodeWord 0x14_00000000_00000000 = .ok .unframe ∧
    decodeWord 0x1E_00000000_00000000 = .ok .pushstack ∧
    decodeWord 0x1F_00000000_00000000 = .ok .popstack ∧ decodeWord 0x20_00000000_00000000 = .ok .ret := by
  decide

theorem test_decode_io :
    decodeWord 0x1C_00000000_00000000 = .ok .printc ∧ decodeWord 0x1D_00000000_00000000 = .ok .printint := by
  decide

/-- R94: fields b, and a of an arity-0 opcode, are ignored; R98 (b): ops 33 and 255 are illegal. -/
theorem test_decode_reserved :
    decodeWord 0x00_DEADBEEF_00000001 = .ok .add ∧
    decodeWord 0x0E_00000003_FFFFFFFF = .ok (.push 3) ∧
    decodeWord 0x21_00000000_00000000 = .error (.unknownOpcode 33) ∧
    decodeWord 0xFF_00000000_00000000 = .error (.unknownOpcode 255) := by decide

/-- The 72 bits of a table row; with fewer bits every bit above them is 0. -/
theorem test_decode_table_word :
    decodeTableWord 72 0x0E_00000003_00000000 = some (.push 3) ∧ decodeTableWord 72 (33 * 2 ^ 64) = none ∧
    decodeTableWord 64 0x0E_00000003_00000000 = some .add := by decide

theorem test_encode_written_out :
    encodeWord (.push 3) = 0x0E_00000003_00000000 ∧ encodeWord .printint = 0x1D_00000000_00000000 ∧
    encodeWord (.load (-4)) = 0x10_FFFFFFFC_00000000 ∧ encodeWord .ret = 0x20_00000000_00000000 := by decide

/-! ### The loader and the text of OUT (V5, V6; each text in ASCII codes) -/

/-- `14 3 14 4 0 29`. -/
theorem test_load_sum :
    load 8 [49, 52, 32, 51, 32, 49, 52, 32, 52, 32, 48, 32, 50, 57] =
      .ok [⟨14, 3, 0⟩, ⟨14, 4, 0⟩, ⟨0, 0, 0⟩, ⟨29, 0, 0⟩] := by decide

/-- `+14 +7`; `14\t7\n29`; and only whitespace. -/
theorem test_load_forms :
    load 8 [43, 49, 52, 32, 43, 55] = .ok [⟨14, 7, 0⟩] ∧
    load 8 [49, 52, 9, 55, 10, 50, 57] = .ok [⟨14, 7, 0⟩, ⟨29, 0, 0⟩] ∧ load 8 [32, 32, 10, 9, 32] = .ok [] := by
  decide

/-- `33`; `14`; `14 abc`; `14 2147483648`; `15 15` into one slot. -/
theorem test_load_errors :
    load 8 [51, 51] = .error .unknownOpcodeTag ∧ load 8 [49, 52] = .error .unexpectedEndOfInput ∧
    load 8 [49, 52, 32, 97, 98, 99] = .error .badToken ∧
    load 8 [49, 52, 32, 50, 49, 52, 55, 52, 56, 51, 54, 52, 56] = .error .badToken ∧
    load 1 [49, 53, 32, 49, 53] = .error .programTooLong := by decide

/-- `14 -2147483648` is PUSH INT_MIN. -/
theorem test_load_int_min :
    load 8 [49, 52, 32, 45, 50, 49, 52, 55, 52, 56, 51, 54, 52, 56] = .ok [⟨14, 0x80000000, 0⟩] := by decide

/-- V5: `-5-21474836480`. -/
theorem test_render_int :
    renderOut [⟨.int, -5⟩, ⟨.int, 0x80000000⟩, ⟨.int, 0⟩] =
      [45, 53, 45, 50, 49, 52, 55, 52, 56, 51, 54, 52, 56, 48] := by decide

/-- V5: 328 and -184 both print `H`. -/
theorem test_render_char : renderOut [⟨.char, 328⟩, ⟨.char, -184⟩, ⟨.char, 0⟩] = [0x48, 0x48, 0] := by decide

/-- R100: `PUSH 3 ; x` and `ADDI` on two lines assemble to `14 3 0 `. -/
theorem test_assemble :
    assemble [80, 85, 83, 72, 32, 51, 32, 59, 32, 120, 10, 65, 68, 68, 73] = some [49, 52, 32, 51, 32, 48, 32] := by
  decide

/-! ### One step of each instruction (V1 to V5) -/

theorem test_add_wraps : gives .add (stk 8 0 [0x7FFFFFFF, 1]) (fun t =>
    holds t 0 0x80000000 && t.sp == 1 && t.pc == 1) = true := by decide

theorem test_add_traps : gives .add (trapping (stk 8 0 [0x7FFFFFFF, 1]))
    (failed (stk 8 0 [0x7FFFFFFF, 1]) .arithmeticError 0x51) = true := by decide

theorem test_sub_order : gives .sub (stk 8 0 [3, 5]) (fun t => holds t 0 (-2) && t.sp == 1) = true := by decide

theorem test_mul_negative : gives .mul (stk 8 0 [6, -7]) (fun t => holds t 0 (-42)) = true := by decide

theorem test_mul_wraps : gives .mul (stk 8 0 [65536, 65536]) (fun t => holds t 0 0) = true := by decide

theorem test_div_toward_zero :
    gives .div (stk 8 0 [-7, 2]) (fun t => holds t 0 (-3)) = true ∧
    gives .div (stk 8 0 [0x80000000, -1]) (fun t => holds t 0 0x80000000) = true := by decide

theorem test_div_by_zero :
    gives .div (stk 8 0 [1, 0]) (failed (stk 8 0 [1, 0]) .arithmeticError 0x51) = true := by decide

theorem test_mod_sign :
    gives .mod (stk 8 0 [-7, 2]) (fun t => holds t 0 (-1)) = true ∧
    gives .mod (stk 8 0 [7, -2]) (fun t => holds t 0 1) = true := by decide

theorem test_mod_int_min :
    gives .mod (trapping (stk 8 0 [0x80000000, -1])) (fun t => holds t 0 0 && t.run == .running) = true := by decide

theorem test_less_signed : gives .less (stk 8 0 [-1, 0]) (fun t => holds t 0 1) = true := by decide

theorem test_leq_equal : gives .leq (stk 8 0 [3, 3]) (fun t => holds t 0 1) = true := by decide

theorem test_eq_differs : gives .eq (stk 8 0 [3, 4]) (fun t => holds t 0 0) = true := by decide

theorem test_neq_differs : gives .neq (stk 8 0 [3, 4]) (fun t => holds t 0 1) = true := by decide

theorem test_geq_equal : gives .geq (stk 8 0 [-5, -5]) (fun t => holds t 0 1) = true := by decide

theorem test_greater_order :
    gives .greater (stk 8 0 [-1, -2]) (fun t => holds t 0 1) = true ∧
    gives .greater (stk 8 0 [-2, -1]) (fun t => holds t 0 0) = true := by decide

theorem test_and_logical : gives .and (stk 8 0 [2, 1]) (fun t => holds t 0 1) = true := by decide

theorem test_or_logical :
    gives .or (stk 8 0 [0x80000000, 0]) (fun t => holds t 0 1) = true ∧
    gives .or (stk 8 0 [0, 0]) (fun t => holds t 0 0) = true := by decide

theorem test_not_in_place :
    gives .not (stk 8 0 [9, 0]) (fun t => holds t 1 1 && t.sp == 2) = true ∧
    gives .not (stk 8 0 [-1]) (fun t => holds t 0 0 && t.sp == 1) = true := by decide

/-- The frame [5, 0 | 6] holds one operand although sp = 3. -/
theorem test_alu_frame_bound :
    gives .add (stk 8 2 [5, 0, 6]) (failed (stk 8 2 [5, 0, 6]) .insufficientOperands 0x21) = true := by decide

theorem test_push_at_top : gives (.push 5) (stk 4 0 [4, 9, 1]) (fun t => holds t 3 5 && t.sp == 4) = true := by
  decide

theorem test_push_overflows :
    gives (.push 5) (stk 4 0 [9, 9, 9, 9]) (failed (stk 4 0 [9, 9, 9, 9]) .stackOverflow 0x11) = true := by decide

/-- ALLOC 2; POP: the popped cell may be undefined. -/
theorem test_pop_undefined :
    gives .pop ((stk 4 0 [1, 2]).undefineCells 0 2) (fun t => t.sp == 1 && t.run == .running) = true := by decide

theorem test_load_saved_bp : gives (.load (-1)) (stk 4 2 [1, 0]) (fun t => holds t 2 0 && t.sp == 3) = true := by
  decide

/-- Room comes before the window. -/
theorem test_load_order :
    gives (.load 9) (stk 4 0 [1, 2, 3, 4]) (failed (stk 4 0 [1, 2, 3, 4]) .stackOverflow 0x11) = true := by decide

theorem test_store_result : gives (.store 0) (stk 4 0 [5, 6]) (fun t => holds t 0 6 && t.sp == 1) = true := by decide

/-- Cell 1 is the popped cell. -/
theorem test_store_window :
    gives (.store 1) (stk 4 0 [5, 6]) (failed (stk 4 0 [5, 6]) .addressOutOfBounds 0x71) = true := by decide

theorem test_alloc_all : gives (.alloc 4) (stk 4 0 []) (fun t =>
    t.sp == 4 && !t.isDefined 0 && !t.isDefined 3 && t.run == .running) = true := by decide

/-- Room of R65 and the pseudocode of R134, where R134 contradicts itself (notes/assumptions/18.md); and one
cell higher, where it does not. -/
theorem test_alloc_intMax :
    gives (.alloc 0x7FFFFFFF) (stk 0x7FFFFFFF 0 []) (fun t => t.sp == 0x7FFFFFFF && t.run == .running) = true ∧
    gives (.alloc 0x7FFFFFFF) (stk 0x7FFFFFFF 0 [1])
      (failed (stk 0x7FFFFFFF 0 [1]) .stackOverflow 0x11) = true := by decide

theorem test_alloc_negative :
    gives (.alloc (-2)) (stk 4 0 [1, 2]) (fun t => t.sp == 0 && holds t 1 2) = true ∧
    gives (.alloc (-2)) (stk 4 0 [1]) (failed (stk 4 0 [1]) .insufficientOperands 0x21) = true := by decide

theorem test_storesp_before_push : gives .storesp (stk 4 0 [0]) (fun t => holds t 1 1 && t.sp == 2) = true := by
  decide

theorem test_storespoffset_result :
    gives .storespoffset (stk 4 2 [1, 0, 9]) (fun t => holds t 3 1 && t.sp == 4) = true := by decide

theorem test_storestack_result :
    gives .storestack (stk 8 0 [7, 10, 99, 0]) (fun t => holds t 0 99 && holds t 1 10 && t.sp == 2) = true := by
  decide

/-- ALLOC 1; PUSH 0; STORESTACK: the window comes before the read of the value. -/
theorem test_storestack_order :
    gives .storestack ((stk 4 0 [1, 0]).undefineCells 0 1) (fun t => t.err == .addressOutOfBounds) = true := by decide

theorem test_goto_absolute : gives (.goto (-1)) (stk 4 0 []) (fun t => t.pc == -1 && t.run == .running) = true := by
  decide

/-- V3: JUMP 2147483647 at pc = 5. -/
theorem test_jump_wraps :
    gives (.jump 0x7FFFFFFF) { stk 4 0 [] with pc := 5 } (fun t => t.pc == BitVec.ofInt 32 (-2147483644)) = true := by
  decide

theorem test_jmpt_both :
    gives (.jmpt 3) { stk 4 0 [7] with pc := 1 } (fun t => t.pc == 4 && t.sp == 0) = true ∧
    gives (.jmpt 3) { stk 4 0 [0] with pc := 1 } (fun t => t.pc == 2 && t.sp == 0) = true := by decide

theorem test_jmpf_both :
    gives (.jmpf 3) { stk 4 0 [0] with pc := 1 } (fun t => t.pc == 4 && t.sp == 0) = true ∧
    gives (.jmpf 3) { stk 4 0 [-1] with pc := 1 } (fun t => t.pc == 2 && t.sp == 0) = true := by decide

theorem test_printc_event : gives .printc (stk 4 0 [72]) (fun t =>
    t.out == [⟨.char, 72⟩] && t.sp == 0 && t.pc == 1 && t.offer == none) = true := by decide

/-- R79, R241: while `out_ready` is 0 the event is offered and nothing else happens. -/
theorem test_printint_waits :
    gives .printint { running 4 0 [7] [.printint] with ready := ⟨[false], true⟩ } (fun t =>
      t.out == [] && t.sp == 1 && t.pc == 0 && t.ports.event == some (1, 7) && t.ports.imemAddr == none) = true := by
  decide

/-- R44, R79: `out_valid` is 1 also in the step that accepts at once, and 0 after it, after a halt and in reset. -/
theorem test_out_valid_at_once :
    let s := running 4 0 [72] [.printc]
    (s.ports.outValid = true ∧ s.ports.event = some (0, 72) ∧ s.ports.imemAddr = some 0) ∧
    steps s (fun t => !t.ports.outValid && t.out == [⟨.char, 72⟩]) = true ∧
    (running 4 0 [] [.printc]).ports.outValid = false ∧
    ({ s with run := .halted } : State).ports.outValid = false ∧ s.assertReset.ports.outValid = false ∧
    s.assertReset.ports.imemAddr = none := by decide

theorem test_frame_result : gives (.frame 5) (stk 4 0 []) (fun t => holds t 0 5 && t.sp == 1 && t.pc == 1) = true := by
  decide

/-- V4: UNFRAME after RETURN, in readings A and B. -/
theorem test_unframe_readings :
    gives .unframe { stk 4 0 [4] with rv := 42 } (fun t => holds t 0 42 && t.rv == 0 && t.pc == 4 && t.sp == 1) = true ∧
    gives .unframe { stk 4 0 [4] with rv := 42, cfg := { small 4 with unframePops := true } } (fun t =>
      holds t 0 42 && t.pc == 4 && t.sp == 0) = true := by decide

theorem test_pushstack_result :
    gives .pushstack (stk 4 0 [4]) (fun t => holds t 1 0 && t.bp == 2 && t.sp == 2) = true := by decide

theorem test_popstack_result :
    gives .popstack (stk 4 2 [4, 0]) (fun t => t.bp == 0 && t.sp == 1) = true := by decide

theorem test_popstack_faults :
    gives .popstack (stk 4 0 []) (failed (stk 4 0 []) .frameInvariantViolation 0x41) = true ∧
    gives .popstack (stk 4 2 [4, 7]) (failed (stk 4 2 [4, 7]) .frameInvariantViolation 0x41) = true := by decide

theorem test_return_result :
    gives .ret (stk 4 0 [3, 12]) (fun t => t.rv == 12 && t.sp == 1 && t.pc == 1) = true := by decide

/-! ### The step (V7) -/

theorem test_step_normal_end : steps State.reset (fun t => statusWord t == 0x01 && t.pc == 0) = true := by decide

theorem test_step_unknown_opcode :
    steps { stk 4 0 [] with imem := [⟨33, 0, 0⟩] } (fun t => statusWord t == 0x61 && t.pc == 0) = true := by decide

theorem test_step_pc_out_of_bounds :
    steps { running 4 0 [] [.pop] with pc := 2 } (fun t => statusWord t == 0x31) = true := by decide

theorem test_step_fetch_word :
    steps (State.reset.withFetchWord 72 0x0E_00000003_00000000) (fun t => holds t 0 3 && t.pc == 1) = true := by decide

theorem test_step_undefined_read :
    steps ((running 4 0 [1] [.not]).undefineCells 0 1) (fun t => statusWord t == 0x81) = true := by decide

/-! ### Witnesses: for every statement with hypotheses, concrete values that meet them together, one for each
clause, at the boundaries of its ranges. A hypothesis that a step or an instruction answers a next state is met
by computing it. -/

/-- A frame [5 | -7, 2] with room for exactly one more cell. -/
def pair : State := stk 4 1 [5, -7, 2]

theorem test_witness_EncodeOfDecode :
    Slot.wellFormed ⟨32, 0, 0⟩ = true ∧ decode ⟨32, 0, 0⟩ = .ok .ret ∧
    Slot.wellFormed ⟨14, 0x80000000, 0⟩ = true ∧ decode ⟨14, 0x80000000, 0⟩ = .ok (.push 0x80000000) := by decide

/-- Same op and same a with another b; an arity-0 op with another a. -/
theorem test_witness_OpAloneSelects :
    ((⟨14, 3, 0⟩ : Slot).a = (⟨14, 3, 1⟩ : Slot).a) ∧ opcodeArity (⟨13, 1, 0⟩ : Slot).op.toNat = some 0 ∧
    33 ≤ (⟨33, 0, 0⟩ : Slot).op.toNat ∧ 33 ≤ (⟨255, 0, 0⟩ : Slot).op.toNat := by decide

theorem test_witness_LoadingTokenStream :
    ([Instr.push 3, .printint]).length ≤ 2 ∧ ([] : List Instr).length ≤ 0 := by decide

theorem test_witness_LoadedPrograms :
    load (small 4).imemDepth [49, 52, 32, 51] = .ok [⟨14, 3, 0⟩] := by decide

/-- A full program before a bad tag, at both ends; a free slot before a tag without operand, at both ends of
the arity-1 tags; one instruction too many, and two. -/
theorem test_witness_LoaderRefuses :
    (([Instr.pop]).length ≤ 1 ∧ ((-1 : Word).toInt < 0 ∨ 32 < (-1 : Word).toInt) ∧
      ((33 : Word).toInt < 0 ∨ 32 < (33 : Word).toInt)) ∧
    (([Instr.pop]).length < 2 ∧ opcodeArity 14 = some 1 ∧ opcodeArity 27 = some 1) ∧
    1 < ([Instr.pop, .pop]).length ∧ 0 < ([Instr.pop, .pop]).length := by decide

/-- A token outside the grammar: `-` without a digit. -/
theorem test_witness_BadToken_grammar : BadToken [0x2D] := by
  refine ⟨by decide, by decide, ?_⟩
  rintro x ⟨digits, hne, hd, (⟨rfl | h, -⟩ | ⟨h, -⟩)⟩
  · exact absurd (hd 0x2D (by decide)) (by decide)
  · exact absurd (List.cons.inj h).1 (by decide)
  · exact absurd (List.cons.inj h).2.symm hne

/-- A token just outside the range: `2147483648`. -/
theorem test_witness_BadToken_range : BadToken [50, 49, 52, 55, 52, 56, 51, 54, 52, 56] := by
  refine ⟨by decide, by decide, ?_⟩
  rintro x ⟨digits, -, -, (⟨rfl | h, rfl⟩ | ⟨h, -⟩)⟩
  · decide
  · exact absurd (List.cons.inj h).1 (by decide)
  · exact absurd (List.cons.inj h).1 (by decide)

/-- The first and the last slot of a program. -/
theorem test_witness_StepExecutes :
    let s := running 4 0 [7] [.pop, .goto 0]
    Running s ∧ FrameOK s ∧ 0 ≤ s.pc.toInt ∧ s.imem[s.pc.toInt.toNat]? = some (encode .pop) ∧
    decode (encode .pop) = .ok .pop ∧
    s.imem[({ s with pc := 1 } : State).pc.toInt.toNat]? = some (encode (.goto 0)) := by decide

theorem test_witness_FrameCheck_dispatches : frontEnd (running 4 4 [1, 2, 3, 4] [.ret]) = .inr .ret := rfl

/-- sp above the capacity, sp negative, bp negative, bp above sp. -/
theorem test_witness_FrameCheck_raises :
    Running (stk 4 0 [1, 2, 3, 4, 5]) ∧ ¬ FrameOK (stk 4 0 [1, 2, 3, 4, 5]) ∧
    ¬ FrameOK { stk 4 0 [] with sp := -1 } ∧ ¬ FrameOK { stk 4 0 [] with bp := -1 } ∧ ¬ FrameOK (stk 4 1 []) := by
  decide

/-- pc at N, just above it and just below 0; and no program at all. -/
theorem test_witness_Termination :
    let s := running 4 0 [] [.pop]
    Running s ∧ FrameOK s ∧ ({ s with pc := 1 } : State).pc.toInt = s.progLen ∧
    s.progLen < ({ s with pc := 2 } : State).pc.toInt ∧ ({ s with pc := -1 } : State).pc.toInt < 0 ∧
    (stk 4 0 []).imem = [] := by decide

theorem test_witness_UnknownOpcode :
    let s : State := { stk 4 0 [] with imem := [⟨33, 0, 0⟩, ⟨255, 1, 1⟩] }
    Running s ∧ FrameOK s ∧ 0 ≤ s.pc.toInt ∧ s.imem[s.pc.toInt.toNat]? = some ⟨33, 0, 0⟩ ∧
    33 ≤ (33 : Byte).toNat ∧ load 8 [48] = .ok [⟨0, 0, 0⟩] := by decide

theorem test_witness_StepsExactly : Running (stk 4 0 []) ∧ ¬ Running ({ stk 4 0 [] with run := .halted } : State) ∧
    ¬ Running (stk 4 0 []).assertReset := by decide

/-- A step that goes on, one that ends normally, one that fails; and an instruction that raises. -/
theorem test_witness_WaysToHalt :
    (running 4 0 [1] [.pop]).err = .none ∧
    steps (running 4 0 [1] [.pop]) (fun t => t.run == .running) = true ∧
    steps (stk 4 0 []) (fun t => t.run == .halted && t.err == .none) = true ∧
    steps (running 4 0 [] [.pop]) (fun t => t.run == .halted && t.err != .none) = true ∧
    gives .pop (stk 4 0 []) (fun t => t.run == .halted) = true := by decide

theorem test_witness_RaiseChangesOnly :
    steps (running 4 0 [] [.pop]) (fun t => t.run == .halted && t.err != .none) = true ∧
    (stk 4 0 []).run = .running ∧ gives .pop (stk 4 0 []) (fun t => t.run == .halted) = true := by decide

/-- One raise of each error an instruction can raise, each from a state with FrameOK. -/
theorem test_witness_ErrorsAndTheirSources :
    (FrameOK (stk 1 0 [9]) ∧ gives (.push 1) (stk 1 0 [9]) (fun t => t.err == .stackOverflow) = true) ∧
    (FrameOK (stk 1 0 []) ∧ gives .pop (stk 1 0 []) (fun t => t.err == .insufficientOperands) = true) ∧
    gives .popstack (stk 1 0 []) (fun t => t.err == .frameInvariantViolation) = true ∧
    (FrameOK (stk 2 0 [1, 0]) ∧ gives .div (stk 2 0 [1, 0]) (fun t => t.err == .arithmeticError) = true) ∧
    gives (.load 0) (stk 1 0 []) (fun t => t.err == .addressOutOfBounds) = true ∧
    (FrameOK ((stk 1 0 [1]).undefineCells 0 1) ∧
      gives .not ((stk 1 0 [1]).undefineCells 0 1) (fun t => t.err == .undefinedRead) = true) := by decide

/-- An instruction of each kind that completes: one that falls through, each that sets pc, and a print that
is accepted. -/
theorem test_witness_PcAdvances :
    (stk 4 0 [7]).run = .running ∧ gives .pop (stk 4 0 [7]) (fun t => t.run == .running) = true ∧
    gives (.goto 3) (stk 4 0 [7]) (fun t => t.run == .running) = true ∧
    gives (.jump 3) (stk 4 0 [7]) (fun t => t.run == .running) = true ∧
    gives (.jmpt 3) (stk 4 0 [7]) (fun t => t.run == .running) = true ∧
    gives (.jmpf 3) (stk 4 0 [7]) (fun t => t.run == .running) = true ∧
    gives .unframe (stk 4 0 [7]) (fun t => t.run == .running) = true ∧
    gives .printc (stk 4 0 [7]) (fun t => t.run == .running) = true ∧ (stk 4 0 [7]).ready.now = true ∧
    (stk 4 0 [7]).pc.toInt < intMax := by decide

theorem test_witness_BasePointerRule :
    gives .pop (stk 4 1 [7, 8]) (fun _ => true) = true ∧ Instr.pop ≠ .pushstack ∧ Instr.pop ≠ .popstack := by decide

theorem test_witness_BasePointerRule_dispatch : frontEnd (running 4 2 [7, 8] [.storesp]) = .inr .storesp := rfl

theorem test_witness_ReturnValueRule :
    (stk 4 0 [7]).run = .running ∧ gives .pop (stk 4 0 [7]) (fun _ => true) = true ∧
    gives .ret (stk 4 0 [7]) (fun t => t.run == .running) = true ∧
    gives .unframe (stk 4 0 [7]) (fun t => t.run == .running) = true := by decide

theorem test_witness_OutputSequenceRule :
    gives .pop (stk 4 0 [7]) (fun _ => true) = true ∧ FrameOK (stk 4 0 [7]) ∧ OneOperand (stk 4 0 [7]) ∧
    (stk 4 0 [7]).ready.now = true := by decide

theorem test_witness_StepKeepsProgram : steps (running 4 0 [7] [.pop]) (fun _ => true) = true := by decide

theorem test_witness_OutputGrows :
    steps (running 4 0 [7] [.printint]) (fun t => t.out == [⟨.int, 7⟩]) = true ∧
    steps (running 4 0 [7] [.pop]) (fun t => t.out == []) = true := by decide

/-- The first and the last cell. -/
theorem test_witness_ReadAfterWrite :
    (∃ t, memWrite (stk 4 0 []) 0 7 = .ok t) ∧ ∃ t, memWrite (stk 4 0 []) 3 7 = .ok t := ⟨⟨_, rfl⟩, _, rfl⟩

/-- Just outside at both ends; an undefined cell; the first and the last cell, readable. -/
theorem test_witness_ReadOfCell :
    let s := stk 2 0 [7, 8]
    ¬ (0 ≤ (-1 : Int) ∧ (-1 : Int) < s.cfg.maxStackSize) ∧ ¬ (0 ≤ (2 : Int) ∧ (2 : Int) < s.cfg.maxStackSize) ∧
    (s.cfg.uninitCheck = true ∧ (s.undefineCells 0 1).isDefined (0 : Int).toNat = false) ∧
    Readable s 0 ∧ Readable s 1 ∧ (1 : Int) < s.cfg.maxStackSize ∧
    s.cellAt (1 : Int).toNat = some { word := 8, status := .defined } := by decide

/-- Two operands, exactly; the largest sum, difference and product that are words, and ones that are not. -/
theorem test_witness_AddSubMul :
    let s := stk 2 0 [0x7FFFFFFF, 0]
    FrameOK s ∧ TwoOperands s ∧ FrameOK pair ∧ TwoOperands pair ∧
    IsWord ((valueAt s 0).toInt + (valueAt s 1).toInt) ∧ ¬ IsWord ((valueAt s 0).toInt + 1) ∧
    s.cfg.overflowTrap = false := by decide

theorem test_witness_DivMod :
    let s := stk 2 0 [0x80000000, -1]
    FrameOK s ∧ TwoOperands s ∧ (valueAt s 1).toInt ≠ 0 ∧ s.cfg.overflowTrap = false ∧
    (valueAt s 0).toInt = intMin ∧ TwoOperands (trapping pair) ∧
    ¬ ((valueAt pair 1).toInt = intMin ∧ (valueAt pair 2).toInt = -1) := by decide

theorem test_witness_QuotientLaw :
    (-1 : Int) ≠ 0 ∧ IsWord (-7) ∧ IsWord 2 ∧ ¬ ((-7 : Int) = intMin ∧ (2 : Int) = -1) ∧ IsWord intMin := by decide

/-- Divisor 0; and with the trap on, a sum, a difference, a product and a quotient just outside the words. -/
theorem test_witness_ArithmeticErrors :
    (TwoOperands (stk 2 0 [1, 0]) ∧ (valueAt (stk 2 0 [1, 0]) 1).toInt = 0) ∧
    (let s := trapping (stk 2 0 [0x7FFFFFFF, 1])
     FrameOK s ∧ TwoOperands s ∧ s.cfg.overflowTrap = true ∧
       ¬ IsWord ((valueAt s 0).toInt + (valueAt s 1).toInt)) ∧
    (let s := trapping (stk 2 0 [0x80000000, 1])
     TwoOperands s ∧ ¬ IsWord ((valueAt s 0).toInt - (valueAt s 1).toInt)) ∧
    (let s := trapping (stk 2 0 [0x80000000, -1])
     TwoOperands s ∧ ¬ IsWord ((valueAt s 0).toInt * (valueAt s 1).toInt) ∧
       (valueAt s 0).toInt = intMin ∧ (valueAt s 1).toInt = -1) := by decide

theorem test_witness_ComparisonAndBoolean :
    FrameOK pair ∧ TwoOperands pair ∧ OneOperand (stk 1 0 [0]) ∧ FrameOK (stk 1 0 [0]) := by decide

/-- One operand too few: a frame of one and an empty frame. -/
theorem test_witness_AluRequires :
    (stk 4 1 [5, 6]).sp.toInt - (stk 4 1 [5, 6]).bp.toInt < 2 ∧ Instr.div ∈ binaryInstrs ∧
    (stk 4 2 [5, 6]).sp.toInt - (stk 4 2 [5, 6]).bp.toInt < 1 := by decide

theorem test_witness_AluUndefined :
    let s := (stk 2 0 [1, 2]).undefineCells 0 1
    let u := (stk 2 0 [1, 2]).undefineCells 1 2
    FrameOK s ∧ s.cfg.uninitCheck = true ∧ 2 ≤ s.sp.toInt - s.bp.toInt ∧
    s.isDefined (s.sp.toInt - 2).toNat = false ∧
    u.isDefined (u.sp.toInt - 2).toNat = true ∧ u.isDefined (u.sp.toInt - 1).toNat = false := by decide

/-- Room for exactly one cell. -/
theorem test_witness_Pushing : FrameOK pair ∧ RoomForOne pair ∧ ¬ RoomForOne (stk 3 1 [5, -7, 2]) := by decide

/-- Room for none, and for exactly one fewer than ALLOC asks. -/
theorem test_witness_Capacity :
    let s := stk 3 1 [5, -7, 2]
    s.cfg.maxStackSize < s.sp.toInt + 1 ∧ 0 < (1 : Word).toInt ∧
    s.cfg.maxStackSize < s.sp.toInt + (1 : Word).toInt ∧
    (4 : Int) = pair.cfg.maxStackSize ∧ pair.cfg.maxStackSize < pair.sp.toInt + (2 : Word).toInt := by decide

theorem test_witness_Pop : 1 ≤ (stk 1 0 [7]).sp.toInt - (stk 1 0 [7]).bp.toInt := by decide

/-- The lowest and the highest cell of the window, the lowest through a negative offset. -/
theorem test_witness_Load :
    FrameOK pair ∧ RoomForOne pair ∧
    (0 ≤ pair.bp.toInt + (-1 : Word).toInt ∧ Readable pair (pair.bp.toInt + (-1 : Word).toInt)) ∧
    (pair.bp.toInt + (1 : Word).toInt < pair.sp.toInt ∧ Readable pair (pair.bp.toInt + (1 : Word).toInt)) := by decide

theorem test_witness_Store :
    FrameOK pair ∧ OneOperand pair ∧ 0 ≤ pair.bp.toInt + (-1 : Word).toInt ∧
    pair.bp.toInt + (0 : Word).toInt < pair.sp.toInt - 1 := by decide

theorem test_witness_Storestack :
    let s := stk 4 1 [5, 6, 99, -1]
    FrameOK s ∧ TwoOperands s ∧ 0 ≤ s.bp.toInt + (valueAt s (s.sp.toInt - 1)).toInt ∧
    s.bp.toInt + (valueAt s (s.sp.toInt - 1)).toInt < s.sp.toInt - 2 := by decide

/-- Just outside each window, above and below. -/
theorem test_witness_AddressOutsideWindow :
    (FrameOK pair ∧ RoomForOne pair ∧ ¬ (pair.bp.toInt + (2 : Word).toInt < pair.sp.toInt)) ∧
    ¬ (0 ≤ pair.bp.toInt + (-2 : Word).toInt) ∧
    (1 ≤ pair.sp.toInt - pair.bp.toInt ∧ ¬ (pair.bp.toInt + (1 : Word).toInt < pair.sp.toInt - 1)) ∧
    (2 ≤ pair.sp.toInt - pair.bp.toInt ∧ Readable pair (pair.sp.toInt - 1) ∧
      valueAt pair (pair.sp.toInt - 1) = 2 ∧ ¬ (pair.bp.toInt + (2 : Word).toInt < pair.sp.toInt - 2)) := by decide

/-- The whole remaining memory; the whole frame; nothing. -/
theorem test_witness_Alloc :
    (0 < (1 : Word).toInt ∧ pair.sp.toInt + (1 : Word).toInt ≤ pair.cfg.maxStackSize) ∧
    ((-2 : Word).toInt ≤ 0 ∧ -(-2 : Word).toInt ≤ pair.sp.toInt - pair.bp.toInt) ∧ (0 : Word).toInt ≤ 0 := by decide

theorem test_witness_TooFewOperands :
    (stk 4 2 [5, 6]).sp.toInt - (stk 4 2 [5, 6]).bp.toInt < 1 ∧
    (stk 4 1 [5, 6]).sp.toInt - (stk 4 1 [5, 6]).bp.toInt < 2 ∧ (-3 : Word).toInt < 0 ∧
    pair.sp.toInt - pair.bp.toInt < -(-3 : Word).toInt := by decide

/-- The top undefined (also as the value of a STORE, at its highest address); a cell LOAD names; the address
and the value of STORESTACK. -/
theorem test_witness_UndefinedCell :
    (let s := pair.undefineCells 2 3
     FrameOK s ∧ s.cfg.uninitCheck = true ∧ 1 ≤ s.sp.toInt - s.bp.toInt ∧
       s.isDefined (s.sp.toInt - 1).toNat = false ∧ 0 ≤ s.bp.toInt + (0 : Word).toInt ∧
       s.bp.toInt + (0 : Word).toInt < s.sp.toInt - 1 ∧ RoomForOne s ∧
       s.bp.toInt + (1 : Word).toInt < s.sp.toInt ∧ s.isDefined (s.bp.toInt + (1 : Word).toInt).toNat = false ∧
       2 ≤ s.sp.toInt - s.bp.toInt) ∧
    (let s := (stk 4 1 [5, 6, 99, -1]).undefineCells 2 3
     s.isDefined (s.sp.toInt - 1).toNat = true ∧ valueAt s (s.sp.toInt - 1) = -1 ∧
       0 ≤ s.bp.toInt + (-1 : Word).toInt ∧ s.bp.toInt + (-1 : Word).toInt < s.sp.toInt - 2 ∧
       s.isDefined (s.sp.toInt - 2).toNat = false) := by decide

/-- One operand, exactly: for the conditional jumps, UNFRAME, RETURN and the prints. -/
theorem test_witness_OneOperandInstructions :
    FrameOK (stk 1 0 [0]) ∧ OneOperand (stk 1 0 [0]) ∧ (stk 1 0 [0]).ready.now = true := by decide

theorem test_witness_Pushstack : FrameOK (stk 1 0 []) ∧ RoomForOne (stk 1 0 []) := by decide

/-- bp = 0; the least and the greatest link POPSTACK follows, with bp = 2; one below, one above; an undefined
link. -/
theorem test_witness_Popstack :
    (FrameOK (stk 4 0 []) ∧ (stk 4 0 []).bp.toInt < 1) ∧
    (let s := stk 4 2 [4, 0]
     FrameOK s ∧ 1 ≤ s.bp.toInt ∧ Readable s (s.bp.toInt - 1) ∧ 0 ≤ (valueAt s (s.bp.toInt - 1)).toInt) ∧
    (valueAt (stk 4 2 [4, 1]) 1).toInt ≤ (stk 4 2 [4, 1]).bp.toInt - 1 ∧
    ¬ (0 ≤ (valueAt (stk 4 2 [4, -1]) 1).toInt) ∧
    ¬ ((valueAt (stk 4 2 [4, 2]) 1).toInt ≤ (stk 4 2 [4, 2]).bp.toInt - 1) ∧
    ((stk 4 2 [4, 0]).undefineCells 1 2).isDefined ((stk 4 2 [4, 0]).bp.toInt - 1).toNat = false := by decide

/-- sp one below the capacity, in the outermost frame and in an inner one. -/
theorem test_witness_FrameRoundTrip :
    (stk 2 0 [4]).cfg.WellFormed ∧ FrameOK (stk 2 0 [4]) ∧ (stk 2 0 [4]).sp.toInt < (stk 2 0 [4]).cfg.maxStackSize ∧
    FrameOK (stk 4 2 [1, 0, 9]) := by decide

/-- P3 of 95_test_vectors.md at its RETURN: [5, 0 | 5, 7, 12], where the link is the greatest it may be. -/
theorem test_witness_CallProtocol :
    let s := stk 6 2 [5, 0, 5, 7, 12]
    FrameOK s ∧ OneOperand s ∧ s.cfg.unframePops = false ∧ Readable s (s.bp.toInt - 1) ∧
    Readable s (s.bp.toInt - 2) ∧ 0 ≤ (valueAt s (s.bp.toInt - 1)).toInt ∧
    (valueAt s (s.bp.toInt - 1)).toInt ≤ s.bp.toInt - 2 := by decide

/-- A print the host accepts at once, and one it refuses once before. -/
theorem test_witness_PrintWaits :
    let s : State := { running 1 0 [7] [.printint] with ready := ⟨[true], false⟩ }
    let u : State := { running 1 0 [7] [.printc] with ready := ⟨[false, true], false⟩ }
    (OneOperand s ∧ frontEnd s = .inr .printint ∧ (7 : Word) = valueAt s (s.sp.toInt - 1) ∧
      s.ready.samples = List.replicate 0 false ++ true :: []) ∧
    (OneOperand u ∧ frontEnd u = .inr .printc ∧ (7 : Word) = valueAt u (u.sp.toInt - 1) ∧
      u.ready.samples = List.replicate 1 false ++ true :: []) :=
  ⟨⟨by decide, rfl, by decide, rfl⟩, by decide, rfl, by decide, rfl⟩

theorem test_witness_IntEvent : (0x80000000 : Word).toInt < 0 ∧ (-1 : Word).toInt < 0 := by decide

/-- A state with the invariant that holds an offered event, and which steps. -/
theorem test_witness_StepKeepsInvariant :
    let s : State := { running 2 0 [7] [.printint] with offer := some ⟨.int, 7⟩ }
    Inv s ∧ ∃ t, step s = .next t := by
  refine ⟨?_, _, rfl⟩
  exact {
    config := by decide
    program := by decide
    frame := by decide
    canonical := by decide
    cells := by decide
    runningErr := fun _ => rfl
    normalEnd := fun h => by cases h
    noLoadError := by decide
    draws := ⟨by decide, fun p hp d hd => by rw [List.mem_singleton.mp hp] at hd; cases hd⟩
    offers := fun e h => by
      cases h
      exact ⟨by decide, by decide, by decide, .inr ⟨rfl, rfl⟩⟩ }

/-- A missing source, a source that does not load, and one that does. -/
theorem test_witness_Boot :
    (small 1).WellFormed ∧ loadSource 8 none = .error .sourceUnavailable ∧
    loadSource 8 (some [51, 51]) = .error .unknownOpcodeTag ∧ loadSource 8 (some [48]) = .ok [⟨0, 0, 0⟩] := by decide

/-- Two states that differ in a stale cell above sp. -/
theorem test_witness_StaleCells :
    let s := running 4 0 [7, 5] [.pop]
    let u := (s.setCell 3 9).setSp 2
    s.cfg.uninitCheck = true ∧ LiveEqual s u ∧ u ≠ s ∧ ∃ t, step s = .next t := by
  refine ⟨by decide, ⟨⟨_, rfl⟩, fun a ha => ?_⟩, by decide, _, rfl⟩
  have ha : a < 2 := by
    have h : (running 4 0 [7, 5] [.pop]).sp.toInt = 2 := by decide
    omega
  obtain rfl | rfl : a = 0 ∨ a = 1 := by omega
  all_goals decide

/-- A print of each kind with its operand there, a step that appends its event, and a fetch. -/
theorem test_witness_OutputSignals :
    OneOperand (running 1 0 [7] [.printc]) ∧ (running 1 0 [7] [.printc]).ports.outValid = true ∧
    steps (running 1 0 [7] [.printint]) (fun t => t.out == [] ++ [⟨.int, 7⟩]) = true ∧
    (running 1 0 [7] [.printc]).offer = none := by decide

theorem test_witness_OutputSignals_dispatch :
    frontEnd (running 1 0 [7] [.printc]) = .inr .printc ∧ frontEnd (running 1 0 [7] [.printint]) = .inr .printint :=
  ⟨rfl, rfl⟩

end Sys2Proof.Tests
end

/-! The statements about the registers, OUT and the program of 10_state.md. Each is a case analysis on what an
instruction can do (`exec_shape`) or on what a step can do (`step_eq_next`). -/

namespace Sys2Proof.Machine

variable {s t : State} {i : Instr}

/-! ### What an executed instruction leaves behind -/

/-- An executed instruction has completed with one of the shapes, or raised. -/
theorem exec_shape (h : exec i s = .next t) : Shape s i t ∨ ∃ e, t = s.raise e := by
  rcases exec_eq_next.mp h with h | ⟨e, -, rfl⟩
  · exact .inl (rule_shape h)
  · exact .inr ⟨e, rfl⟩

/-- An instruction that leaves the core running has not raised (R201). -/
theorem rule_eq_ok_of_exec_running (h : exec i s = .next t) (ht : t.run = .running) : rule i s = .ok t := by
  rcases exec_eq_next.mp h with h | ⟨e, -, rfl⟩
  · exact h
  · simp at ht

/-- The word that `top` answers is the one in cell sp - 1 (R64, R66). -/
theorem top_value {v : Word} (h : top s = .ok v) : v = valueAt s (s.sp.toInt - 1) := by
  obtain ⟨-, hread⟩ := top_eq_ok.mp h
  obtain ⟨-, -, hv⟩ := memRead_eq_ok.mp hread
  exact hv

theorem rule_unframe_eq_ok : rule .unframe s = .ok t ↔ ∃ r, top s = .ok r ∧
    ∃ u, memWrite s s.topAddr s.rv = .ok u ∧ t = ((u.setRv 0).setSp (unframeSp s)).setPc r := by
  simp [rule, bind_eq_ok, eq_comm (b := t)]

theorem rule_ret_eq_ok : rule .ret s = .ok t ↔ ∃ v, top s = .ok v ∧
    t = ((s.setSp (s.sp.toInt - 1)).setRv v).advance := by
  simp [rule, bind_eq_ok, eq_comm (b := t)]

/-- A print whose operand is there completes when the host accepts (R79, R180, R181). -/
theorem printTop_of_accepted (k : OutKind) (hf : FrameOK s) (h1 : OneOperand s) (hr : s.ready.now = true) :
    printTop k s = .ok ((s.accept ⟨k, valueAt s (s.sp.toInt - 1)⟩).setSp (s.sp.toInt - 1)).advance :=
  printTop_eq_ok.mpr ⟨_, h1.top_eq hf, by rw [if_pos hr]⟩

theorem exec_print_appends {k : OutKind} (hk : printKind i = some k) (hf : FrameOK s) (h1 : OneOperand s)
    (hr : s.ready.now = true) :
    ∃ t, exec i s = .next t ∧ t.out = s.out ++ [⟨k, valueAt s (s.sp.toInt - 1)⟩] := by
  have hrule := printTop_of_accepted k hf h1 hr
  rcases printKind_eq_some.mp hk with ⟨rfl, rfl⟩ | ⟨rfl, rfl⟩ <;>
    exact ⟨_, exec_eq_next.mpr (.inl hrule), rfl⟩

/-! ### Who writes bp, rv, OUT, the program and the parameters -/

theorem Shape.bp_eq (h : Shape s i t) (hpush : i ≠ .pushstack) (hpop : i ≠ .popstack) : t.bp = s.bp := by
  cases h with
  | pushstack | popstack => contradiction
  | _ => rfl

theorem Shape.rv_eq (h : Shape s i t) (hret : i ≠ .ret) (hunframe : i ≠ .unframe) : t.rv = s.rv := by
  cases h with
  | ret | unframe => contradiction
  | _ => rfl

theorem Shape.out_eq (h : Shape s i t) (hc : i ≠ .printc) (hint : i ≠ .printint) : t.out = s.out := by
  cases h with
  | printed e hi => rcases hi with ⟨rfl, -⟩ | ⟨rfl, -⟩ <;> contradiction
  | _ => rfl

theorem Shape.imem_cfg_eq (h : Shape s i t) : t.imem = s.imem ∧ t.cfg = s.cfg := by
  cases h <;> exact ⟨rfl, rfl⟩

theorem exec_bp_eq (h : exec i s = .next t) (hpush : i ≠ .pushstack) (hpop : i ≠ .popstack) :
    t.bp = s.bp := by
  rcases exec_shape h with hs | ⟨e, rfl⟩
  · exact hs.bp_eq hpush hpop
  · rfl

theorem exec_rv_eq (h : exec i s = .next t) (hret : i ≠ .ret) (hunframe : i ≠ .unframe) : t.rv = s.rv := by
  rcases exec_shape h with hs | ⟨e, rfl⟩
  · exact hs.rv_eq hret hunframe
  · rfl

theorem exec_out_eq (h : exec i s = .next t) (hc : i ≠ .printc) (hint : i ≠ .printint) : t.out = s.out := by
  rcases exec_shape h with hs | ⟨e, rfl⟩
  · exact hs.out_eq hc hint
  · rfl

theorem step_imem_cfg_eq (h : step s = .next t) : t.imem = s.imem ∧ t.cfg = s.cfg := by
  obtain ⟨-, -, hc⟩ := step_eq_next h
  cases hc with
  | completed i hi hr => exact (rule_shape hr).imem_cfg_eq
  | frameCheck _ ht | finish _ _ ht | pcBounds _ _ ht | unknownOp _ _ ht | raised _ _ _ _ ht =>
    exact ht ▸ ⟨rfl, rfl⟩

/-! ### The pre-dispatch frame check -/

/-- The frame check is the first check of a step of a running core (R203, R205). -/
theorem frontEnd_of_not_frameOK (hr : Running s) (hf : ¬ FrameOK s) :
    frontEnd s = .inl (.next (s.raise (.frameInvariantViolation .invariant))) := by
  obtain ⟨hrst, hrun⟩ := hr
  simp [frontEnd, hrst, hrun, hf]

theorem frameOK_of_dispatch (h : frontEnd s = .inr i) : FrameOK s := by
  obtain ⟨-, -, hf, -⟩ := frontEnd_eq_inr.mp h
  exact hf

/-! ### pc -/

/-- The instructions that write pc themselves (R32): each may leave it elsewhere than one higher. -/
def setsPc : Instr → Bool
  | .goto _ | .jump _ | .jmpt _ | .jmpf _ | .unframe => true
  | _ => false

/-- Every other instruction that completes ends with the auto-increment (R32); a print completes when the
host accepts it. -/
theorem Shape.pc_eq (h : Shape s i t) (hi : setsPc i = false)
    (hready : i = .printc ∨ i = .printint → s.ready.now = true) : t.pc = s.pc + 1 := by
  cases h with
  | goto | jump | unframe => cases hi
  | taken d hd | notTaken d hd => rcases hd with rfl | rfl <;> cases hi
  | waits e he _ hr => simp [hready (he.imp And.left And.left)] at hr
  | _ => exact wrap_add_one s.pc

/-- A pc below INT_MAX is advanced without a wrap. -/
theorem toInt_add_one {w : Word} (h : w.toInt < intMax) : (w + 1).toInt = w.toInt + 1 := by
  obtain ⟨hlo, -⟩ := toInt_bounds w
  rw [← wrap_add_one, toInt_wrap ⟨by omega, by omega⟩]

/-- Where a conditional jump that completes leaves pc, whichever way it goes (R149, R152, R153). -/
theorem pc_of_jumpWhen {p : Word → Bool} {delta : Word} (h : jumpWhen p delta s = .ok t) :
    t.pc = if p (valueAt s (s.sp.toInt - 1)) then s.pc + delta else s.pc + 1 := by
  obtain ⟨c, hc, rfl⟩ := jumpWhen_eq_ok.mp h
  rw [← top_value hc]
  cases p c
  · exact wrap_add_one s.pc
  · exact wrap_add s.pc delta

/-! ### Nothing but UNFRAME reads rv

A state that differs in rv alone answers every check and read alike, and every write keeps the difference. So
a rule but UNFRAME's has the same result from both up to rv: `setRv` is pushed inwards through the updates, and
`map` through the binds, until the two sides are the same. -/

section MapAndBind

variable {α β γ : Type}

theorem map_eq_ok {r : Except FatalError α} {g : α → β} {b : β} :
    r.map g = .ok b ↔ ∃ a, r = .ok a ∧ g a = b := by
  cases r <;> simp [Except.map]

theorem map_eq_error {r : Except FatalError α} {g : α → β} {e : FatalError} :
    r.map g = .error e ↔ r = .error e := by
  cases r <;> simp [Except.map]

variable (r : Except FatalError α)

@[simp] theorem ok_map (a : α) (g : α → β) : (Except.ok a : Except FatalError α).map g = .ok (g a) := rfl

@[simp] theorem error_map (e : FatalError) (g : α → β) : (Except.error e).map g = .error e := rfl

@[simp] theorem map_map_eq (g : α → β) (h : β → γ) : (r.map g).map h = r.map fun a => h (g a) := by
  cases r <;> rfl

@[simp] theorem bind_map_eq (f : α → Except FatalError β) (g : β → γ) :
    (r.bind f).map g = r.bind fun a => (f a).map g := by
  cases r <;> rfl

@[simp] theorem map_bind_eq (g : α → β) (f : β → Except FatalError γ) :
    (r.map g).bind f = r.bind fun a => f (g a) := by
  cases r <;> rfl

end MapAndBind

namespace State

variable (s : State) (x : Word)

@[simp] theorem setRv_setRv (y : Word) : (s.setRv x).setRv y = s.setRv y := rfl
@[simp] theorem advance_setRv : s.advance.setRv x = (s.setRv x).advance := rfl
@[simp] theorem setSp_setRv (a : Int) : (s.setSp a).setRv x = (s.setRv x).setSp a := rfl
@[simp] theorem setPc_setRv (a : Word) : (s.setPc a).setRv x = (s.setRv x).setPc a := rfl
@[simp] theorem setBp_setRv (a : Word) : (s.setBp a).setRv x = (s.setRv x).setBp a := rfl
@[simp] theorem setCell_setRv (a : Nat) (v : Word) : (s.setCell a v).setRv x = (s.setRv x).setCell a v := rfl
@[simp] theorem accept_setRv (e : OutEvent) : (s.accept e).setRv x = (s.setRv x).accept e := rfl
@[simp] theorem wait_setRv (e : OutEvent) : (s.wait e).setRv x = (s.setRv x).wait e := rfl

@[simp] theorem frameAddr_setRv (off : Word) : (s.setRv x).frameAddr off = s.frameAddr off := rfl
@[simp] theorem topAddr_setRv : (s.setRv x).topAddr = s.topAddr := rfl
@[simp] theorem belowTopAddr_setRv : (s.setRv x).belowTopAddr = s.belowTopAddr := rfl
@[simp] theorem linkAddr_setRv : (s.setRv x).linkAddr = s.linkAddr := rfl
@[simp] theorem pcPlus_setRv (delta : Word) : (s.setRv x).pcPlus delta = s.pcPlus delta := rfl

end State

section ChecksAndWrites

variable (s : State) (x : Word)

@[simp] theorem require_setRv (n : Int) : require (s.setRv x) n = require s n := rfl
@[simp] theorem room_setRv (k : Int) : room (s.setRv x) k = room s k := rfl
@[simp] theorem memRead_setRv (a : Int) : memRead (s.setRv x) a = memRead s a := rfl
@[simp] theorem top_setRv : top (s.setRv x) = top s := rfl
@[simp] theorem allocCheck_setRv (n : Int) : allocCheck (s.setRv x) n = allocCheck s n := rfl
@[simp] theorem checkLink_setRv (w : Word) : checkLink (s.setRv x) w = checkLink s w := rfl

@[simp] theorem allocCells_setRv (n : Int) : allocCells (s.setRv x) n = (allocCells s n).setRv x := by
  unfold allocCells
  split <;> rfl

@[simp] theorem memWrite_setRv (a : Int) (v : Word) :
    memWrite (s.setRv x) a v = (memWrite s a v).map (·.setRv x) := by
  by_cases h : 0 ≤ a ∧ a < s.cfg.maxStackSize <;> simp [memWrite, h]

@[simp] theorem push_setRv (v : Word) : push (s.setRv x) v = (push s v).map (·.setRv x) := by
  simp [push]

@[simp] theorem roomPush_setRv (v : Word) : roomPush (s.setRv x) v = (roomPush s v).map (·.setRv x) := by
  simp [roomPush]

@[simp] theorem binaryAlu_setRv (f : Word → Word → Except FatalError Word) :
    binaryAlu (s.setRv x) f = (binaryAlu s f).map (·.setRv x) := by
  simp [binaryAlu]

@[simp] theorem compareAlu_setRv (f : Word → Word → Bool) :
    compareAlu (s.setRv x) f = (compareAlu s f).map (·.setRv x) := binaryAlu_setRv ..

@[simp] theorem jumpWhen_setRv (p : Word → Bool) (delta : Word) :
    jumpWhen p delta (s.setRv x) = (jumpWhen p delta s).map (·.setRv x) := by
  simp [jumpWhen, apply_ite (State.setRv · x)]

@[simp] theorem printTop_setRv (k : OutKind) :
    printTop k (s.setRv x) = (printTop k s).map (·.setRv x) := by
  cases hr : s.ready.now <;> simp [printTop, emit, hr]

end ChecksAndWrites

/-- The rule of every instruction but UNFRAME has the same result, up to rv, whatever rv holds (R36). -/
theorem rule_setRv (hi : i ≠ .unframe) (x : Word) :
    (rule i (s.setRv x)).map (·.setRv 0) = (rule i s).map (·.setRv 0) := by
  cases i with
  | unframe => contradiction
  | popstack => by_cases hb : s.bp.toInt < 1 <;> simp [rule, hb]
  | _ => simp [rule]

/-- Only UNFRAME reads rv: the next states from two states that differ in rv alone differ in rv alone. -/
theorem exec_setRv (hi : i ≠ .unframe) (h : exec i s = .next t) (x : Word) :
    ∃ t', exec i (s.setRv x) = .next t' ∧ t'.setRv 0 = t.setRv 0 := by
  have hr := rule_setRv (s := s) hi x
  rcases exec_eq_next.mp h with hok | ⟨e, herr, rfl⟩
  · rw [hok] at hr
    obtain ⟨t', ht', heq⟩ := map_eq_ok.mp hr
    exact ⟨t', exec_eq_next.mpr (.inl ht'), heq⟩
  · rw [herr] at hr
    exact ⟨_, exec_eq_next.mpr (.inr ⟨e, map_eq_error.mp hr, rfl⟩), rfl⟩

/-! ### The obligations -/

/-- Settles O16: an instruction that does not set pc ends with the auto-increment (`Shape.pc_eq`); each of the
five that do is read off its own rule. -/
theorem pcAdvancesUnlessSet : Obligations.PcAdvancesUnlessSet := by
  intro i s t _ h ht hready
  have hrule := rule_eq_ok_of_exec_running h ht
  cases i with
  | goto target => exact congrArg State.pc (Except.ok.inj hrule).symm
  | jump delta =>
    obtain rfl := Except.ok.inj hrule
    exact wrap_add s.pc delta
  | jmpt delta => simpa [truthy] using pc_of_jumpWhen hrule
  | jmpf delta => simpa [truthy] using pc_of_jumpWhen hrule
  | unframe =>
    obtain ⟨r, hr, u, -, rfl⟩ := rule_unframe_eq_ok.mp hrule
    exact top_value hr
  | _ =>
    have hpc := (rule_shape hrule).pc_eq rfl hready
    exact ⟨hpc, fun hlt => hpc ▸ toInt_add_one hlt⟩

/-- Settles O17: the shapes show who writes bp, and dispatch follows the frame check. -/
theorem basePointerRule : Obligations.BasePointerRule := by
  refine ⟨fun _ _ _ => exec_bp_eq, fun s i h => ?_, fun _ => rfl⟩
  obtain ⟨-, -, hbp⟩ := frameOK_of_dispatch h
  exact hbp

/-- Settles O18: the shapes show who writes rv, and `exec_setRv` who reads it. -/
theorem returnValueRule : Obligations.ReturnValueRule := by
  refine ⟨fun _ _ _ => exec_rv_eq, fun s t _ h ht => ?_, fun s t _ h ht => ?_,
    fun _ _ _ x hi h => exec_setRv hi h x, fun _ => rfl⟩
  · obtain ⟨v, hv, rfl⟩ := rule_ret_eq_ok.mp (rule_eq_ok_of_exec_running h ht)
    exact top_value hv
  · obtain ⟨r, -, u, -, rfl⟩ := rule_unframe_eq_ok.mp (rule_eq_ok_of_exec_running h ht)
    rfl

/-- Settles O19: the shapes show who writes OUT, and a print with its operand there appends its event. -/
theorem outputSequenceRule : Obligations.OutputSequenceRule := by
  refine ⟨fun _ _ _ => exec_out_eq, fun s hf h1 hr => ?_, fun _ => rfl⟩
  exact ⟨exec_print_appends rfl hf h1 hr, exec_print_appends rfl hf h1 hr⟩

/-- Settles O20, over every case of a step. -/
theorem stepKeepsProgramAndParameters : Obligations.StepKeepsProgramAndParameters := by
  intro s t h
  obtain ⟨himem, hcfg⟩ := step_imem_cfg_eq h
  exact ⟨himem, hcfg, by rw [State.progLen, himem, State.progLen]⟩

/-- Settles O9: dispatch is behind the frame check, and where that fails the step ends in its raise. -/
theorem frameCheckPrecedesDispatch : Obligations.FrameCheckPrecedesDispatch := by
  refine fun s => ⟨fun i => frameOK_of_dispatch, fun hr hf => ?_⟩
  rw [step, frontEnd_of_not_frameOK hr hf]

end Sys2Proof.Machine

/-! The statement about the capacity of 20_memory.md. Every instruction that needs room checks it first, so what
a full stack makes of it is read off that one check. -/

namespace Sys2Proof.Machine

variable {s : State} {i : Instr} {e : FatalError}

/-- An instruction whose rule begins with a check raises where that check fails, whatever comes after (R12). -/
theorem raises_of_firstCheck {α : Type} {check : Except FatalError α} {rest : α → Except FatalError State}
    (hcheck : check = .error e) (hrule : rule i s = check.bind rest) : Raises i s e :=
  exec_eq_next.mpr (.inr ⟨e, hrule.trans (bind_eq_error.mpr (.inl hcheck)), rfl⟩)

theorem room_of_exceeded {k : Int} (h : s.cfg.maxStackSize < s.sp.toInt + k) :
    room s k = .error .stackOverflow :=
  room_eq_error.mpr ⟨h, rfl⟩

theorem roomPush_of_full (h : s.cfg.maxStackSize < s.sp.toInt + 1) (v : Word) :
    roomPush s v = .error .stackOverflow :=
  bind_eq_error.mpr (.inl (room_of_exceeded h))

/-- A positive count is checked by Room alone (R134). -/
theorem allocCheck_of_pos {n : Int} (h : 0 < n) : allocCheck s n = room s n := if_pos h

/-- Settles O33: LOAD calls Room itself, ALLOC through `allocCheck` and the others through `roomPush`, each before
anything else of its rule. -/
theorem capacityExceededRaises : Obligations.CapacityExceededRaises := by
  refine fun s => ⟨fun hfull => ?_, fun n hpos hexc => ?_⟩
  · have hpush := roomPush_of_full hfull
    exact ⟨fun w => raises_of_firstCheck (hpush w) rfl,
      fun w => raises_of_firstCheck (room_of_exceeded hfull) rfl,
      fun w => raises_of_firstCheck (hpush (s.pcPlus w)) rfl,
      raises_of_firstCheck (hpush s.sp) rfl,
      raises_of_firstCheck (hpush (wrap (s.sp.toInt - s.bp.toInt))) rfl,
      raises_of_firstCheck (hpush s.bp) rfl⟩
  · have hcheck : allocCheck s n.toInt = .error .stackOverflow :=
      (allocCheck_of_pos hpos).trans (room_of_exceeded hexc)
    exact raises_of_firstCheck hcheck rfl

end Sys2Proof.Machine

/-! The statements about the stack ALU of 40_alu.md. A binary instruction is `binaryAlu` of its function, so each
statement is the ALU's common rule (R101, R102) and what that one function answers on the two words. -/

namespace Sys2Proof

theorem toInt_eq_zero_iff {w : Word} : w.toInt = 0 ↔ w = 0 := BitVec.toInt_inj (y := 0)

/-- Only INT_MIN / -1 has a quotient that is no word (R113): a divisor of absolute value 2 or more at least
halves the dividend. -/
theorem isWord_tdiv {a b : Int} (ha : IsWord a) (h : ¬ (a = intMin ∧ b = -1)) : IsWord (a.tdiv b) := by
  have hb : b = -1 ∨ b = 0 ∨ b = 1 ∨ 2 ≤ b.natAbs := by omega
  rcases hb with rfl | rfl | rfl | hb
  · have hmin : a ≠ intMin := fun h' => h ⟨h', rfl⟩
    rw [Int.tdiv_neg, Int.tdiv_one]
    simp only [IsWord, intMin, intMax] at *
    omega
  · rw [Int.tdiv_zero]
    decide
  · rwa [Int.tdiv_one]
  · have hq : (a.tdiv b).natAbs ≤ a.natAbs / 2 :=
      (Int.natAbs_tdiv a b).trans_le (Nat.div_le_div_left hb (by decide))
    simp only [IsWord, intMin, intMax] at *
    omega

end Sys2Proof

namespace Sys2Proof.Machine

variable {s : State} {i : Instr} {e : FatalError} {c : Config} {x : Int} {a b r : Word}
  {f : Word → Word → Except FatalError Word}

/-! ### What the functions of the ALU answer -/

theorem narrow_of_fits (h : IsWord x ∨ c.overflowTrap = false) : narrow c x = .ok (wrap x) :=
  narrow_eq_ok.mpr ⟨rfl, h⟩

theorem narrow_of_overflow (ht : c.overflowTrap = true) (h : ¬ IsWord x) :
    narrow c x = .error (.arithmeticError .overflow) :=
  narrow_eq_error.mpr ⟨rfl, h, ht⟩

theorem divide_of_eq_zero (h : b.toInt = 0) : divide c a b = .error (.arithmeticError .divisionByZero) :=
  if_pos (toInt_eq_zero_iff.mp h)

theorem divide_of_ne_zero (h : b.toInt ≠ 0) : divide c a b = narrow c (a.toInt.tdiv b.toInt) :=
  if_neg (mt toInt_eq_zero_iff.mpr h)

theorem remainder_of_eq_zero (h : b.toInt = 0) : remainder a b = .error (.arithmeticError .divisionByZero) :=
  if_pos (toInt_eq_zero_iff.mp h)

theorem remainder_of_ne_zero (h : b.toInt ≠ 0) :
    remainder a b = .ok (wrap (a.toInt - b.toInt * a.toInt.tdiv b.toInt)) :=
  if_neg (mt toInt_eq_zero_iff.mpr h)

/-- With the trap on, INT_MIN / -1 is the quotient that overflows (R113, D8). -/
theorem divide_of_overflow (ht : c.overflowTrap = true) (ha : a.toInt = intMin) (hb : b.toInt = -1) :
    divide c a b = .error (.arithmeticError .overflow) := by
  have hne : b.toInt ≠ 0 := by omega
  have hq : ¬ IsWord (a.toInt.tdiv b.toInt) := by
    rw [ha, hb]
    decide
  rw [divide_of_ne_zero hne, narrow_of_overflow ht hq]

theorem boolWord_eq_ite {v : Bool} {p : Prop} [Decidable p] (h : v = true ↔ p) :
    boolWord v = if p then 1 else 0 := by
  simp only [boolWord, h]

/-! ### The common rule of the ALU -/

theorem rule_of_binary (hi : i ∈ binaryInstrs) : ∃ f, rule i s = binaryAlu s f := by
  cases i with
  | add | sub | mul | div | mod => exact ⟨_, rfl⟩
  | less | leq | eq | neq | geq | greater => exact ⟨_, rfl⟩
  | and | or => exact ⟨_, rfl⟩
  | _ => simp [binaryInstrs] at hi

/-- A binary instruction whose operands are there completes with what its function answers (R101). -/
theorem TwoOperands.binaryResult (h : TwoOperands s) (hf : FrameOK s) (hrule : rule i s = binaryAlu s f)
    (hr : f (valueAt s (s.sp.toInt - 2)) (valueAt s (s.sp.toInt - 1)) = .ok r) : BinaryResult i s r := by
  obtain ⟨hleft, hright⟩ := h.memRead_eq hf
  obtain ⟨hcount, -, -⟩ := h
  have hok := hrule.trans (binaryAlu_eq_ok.mpr ⟨hcount, _, _, r, hleft, hright, hr, rfl⟩)
  refine ⟨_, ?_, writesCell_insert r⟩
  rw [← wrap_sub_one, ← wrap_add_one]
  exact exec_eq_next.mpr (.inl hok)

/-- A binary instruction whose operands are there raises what its function raises (R12). -/
theorem TwoOperands.raises (h : TwoOperands s) (hf : FrameOK s) (hrule : rule i s = binaryAlu s f)
    (he : f (valueAt s (s.sp.toInt - 2)) (valueAt s (s.sp.toInt - 1)) = .error e) : Raises i s e := by
  obtain ⟨hleft, hright⟩ := h.memRead_eq hf
  obtain ⟨hcount, -, -⟩ := h
  have herr := binaryAlu_eq_error.mpr (.inr ⟨hcount, .inr ⟨_, hleft, .inr ⟨_, hright, he⟩⟩⟩)
  exact exec_eq_next.mpr (.inr ⟨e, hrule.trans herr, rfl⟩)

/-- A comparison or boolean function whose operands are there leaves 1 or 0 by its condition. -/
theorem TwoOperands.compareResult {g : Word → Word → Bool} {p : Prop} [Decidable p] (h : TwoOperands s)
    (hf : FrameOK s) (hrule : rule i s = compareAlu s g)
    (hp : g (valueAt s (s.sp.toInt - 2)) (valueAt s (s.sp.toInt - 1)) = true ↔ p) :
    BinaryResult i s (if p then 1 else 0) :=
  h.binaryResult hf hrule (congrArg Except.ok (boolWord_eq_ite hp))

/-- NOT with its operand there writes the negated truth of the top word over it (R123). -/
theorem OneOperand.rule_not (h : OneOperand s) (hf : FrameOK s) :
    rule .not s = .ok (s.setCell (s.sp.toInt - 1).toNat
      (if valueAt s (s.sp.toInt - 1) = 0 then 1 else 0)).advance := by
  obtain ⟨-, hread⟩ := top_eq_ok.mp (h.top_eq hf)
  obtain ⟨hcell, -, -⟩ := memRead_eq_ok.mp hread
  have hv : boolWord (!truthy (valueAt s (s.sp.toInt - 1))) =
      if valueAt s (s.sp.toInt - 1) = 0 then 1 else 0 := boolWord_eq_ite (by simp [truthy])
  simp only [rule, h.top_eq hf, ok_bind, hv, bind_eq_ok, memWrite_eq_ok, State.topAddr]
  exact ⟨_, ⟨hcell, rfl⟩, rfl⟩

/-! ### The obligations -/

/-- Settles O24: each function is `narrow` of the exact result. -/
theorem addSubMulResults : Obligations.AddSubMulResults := fun _ hf h2 =>
  ⟨fun h => h2.binaryResult hf rfl (narrow_of_fits h), fun h => h2.binaryResult hf rfl (narrow_of_fits h),
    fun h => h2.binaryResult hf rfl (narrow_of_fits h)⟩

/-- Settles O25: the quotient is a word unless it is INT_MIN / -1 (`isWord_tdiv`), the remainder needs no
check. -/
theorem divModResults : Obligations.DivModResults := by
  intro s hf h2 a b hb
  refine ⟨fun h => h2.binaryResult hf rfl ?_, h2.binaryResult hf rfl (remainder_of_ne_zero hb)⟩
  have hfits : IsWord (a.tdiv b) ∨ s.cfg.overflowTrap = false := h.imp_left (isWord_tdiv (toInt_bounds _))
  exact (divide_of_ne_zero hb).trans (narrow_of_fits hfits)

/-- Settles O27: with the operands there, an instruction raises what its function raises. -/
theorem arithmeticErrors : Obligations.ArithmeticErrors := by
  refine fun s hf h2 => ⟨fun hb => ?_, fun ht => ?_⟩
  · exact ⟨h2.raises hf rfl (divide_of_eq_zero hb), h2.raises hf rfl (remainder_of_eq_zero hb)⟩
  · exact ⟨fun h => h2.raises hf rfl (narrow_of_overflow ht h),
      fun h => h2.raises hf rfl (narrow_of_overflow ht h),
      fun h => h2.raises hf rfl (narrow_of_overflow ht h),
      fun ha hb => h2.raises hf rfl (divide_of_overflow ht ha hb)⟩

/-- Settles O28: the model decides EQ and NEQ on the words themselves, which agree where their signed readings
do. -/
theorem comparisonResults : Obligations.ComparisonResults := fun _ hf h2 =>
  ⟨h2.compareResult hf rfl decide_eq_true_iff,
    h2.compareResult hf rfl decide_eq_true_iff,
    h2.compareResult hf rfl (decide_eq_true_iff.trans BitVec.toInt_inj.symm),
    h2.compareResult hf rfl (decide_eq_true_iff.trans BitVec.toInt_ne.symm),
    h2.compareResult hf rfl decide_eq_true_iff,
    h2.compareResult hf rfl decide_eq_true_iff⟩

/-- Settles O29: AND and OR by the common rule, NOT by its own (`OneOperand.rule_not`). -/
theorem booleanResults : Obligations.BooleanResults := by
  refine fun s hf => ⟨fun h2 => ?_, fun h1 => ⟨_, ?_, writesCell_insert _⟩⟩
  · exact ⟨h2.compareResult hf rfl (by simp [truthy]), h2.compareResult hf rfl (by simp [truthy])⟩
  · rw [← wrap_add_one]
    exact exec_eq_next.mpr (.inl (h1.rule_not hf))

/-- Settles O30: `Require` is the first check of `binaryAlu` and of NOT's `top`. -/
theorem aluRequiresOperandsFirst : Obligations.AluRequiresOperandsFirst := by
  refine fun s => ⟨fun h i hi => ?_, fun h => ?_⟩
  · obtain ⟨f, hrule⟩ := rule_of_binary (s := s) hi
    exact raises_of_firstCheck (require_eq_error.mpr ⟨h, rfl⟩) hrule
  · exact raises_of_firstCheck (top_eq_error.mpr (.inl ⟨h, rfl⟩)) rfl

end Sys2Proof.Machine

/-! The statements about stack and memory access of 41_stack.md. Each instruction but POP completes by writing one
cell, moving sp and advancing pc: `exec_of_cellWrite` says once what that leaves, and one lemma for each rule
says what it answers where its checks pass. -/

namespace Sys2Proof.Machine

variable {s : State} {i : Instr} {off v sp' : Word} {a x : Int}

/-! ### One cell written -/

/-- A rule that writes a cell, moves sp and advances has changed that cell, sp and pc, and nothing else. -/
theorem exec_of_cellWrite (h : rule i s = .ok ((s.setCell a.toNat v).setSp x).advance) (hx : wrap x = sp') :
    ∃ m, exec i s = .next { s with mem := m, sp := sp', pc := s.pc + 1 } ∧ WritesCell s m a v := by
  refine ⟨_, ?_, writesCell_insert v⟩
  rw [← hx, ← wrap_add_one]
  exact exec_eq_next.mpr (.inl h)

/-- Where there is room, an instruction that is `roomPush` of a word pushes that word (R65, R68). -/
theorem RoomForOne.pushResult (hroom : RoomForOne s) (hf : FrameOK s)
    (hrule : rule i s = (roomPush s v).bind fun t => .ok t.advance) : PushResult i s v := by
  obtain ⟨hsp, -⟩ := hf
  have hpush := roomPush_eq_ok (v := v).mpr ⟨hroom, hsp, rfl⟩
  exact exec_of_cellWrite (hrule.trans (bind_eq_ok.mpr ⟨_, hpush, rfl⟩)) (wrap_add_one s.sp)

/-! ### The explicit address inside its window -/

/-- LOAD of a readable cell below sp, in this frame or an enclosing one, pushes its word (R132). -/
theorem RoomForOne.rule_load (hroom : RoomForOne s) (hf : FrameOK s) (h0 : 0 ≤ s.frameAddr off)
    (hlt : s.frameAddr off < s.sp.toInt) (hread : Readable s (s.frameAddr off)) :
    rule (.load off) s =
      .ok ((s.setCell s.sp.toInt.toNat (valueAt s (s.frameAddr off))).setSp (s.sp.toInt + 1)).advance := by
  obtain ⟨hsp, hcap, -⟩ := hf
  have hcell := memRead_readable h0 (hlt.trans_le hcap) hread
  have hnew : s.sp.toInt < s.cfg.maxStackSize := by omega
  simp only [rule, bind_eq_ok, room_eq_ok, checkAddr_eq_ok, push_eq_ok]
  exact ⟨(), hroom, (), ⟨h0, hlt⟩, _, hcell, _, ⟨⟨hsp, hnew⟩, rfl⟩, rfl⟩

/-- STORE into a cell below its operand writes the top word there and pops it (R133). -/
theorem OneOperand.rule_store (h1 : OneOperand s) (hf : FrameOK s) (h0 : 0 ≤ s.frameAddr off)
    (hlt : s.frameAddr off < s.sp.toInt - 1) :
    rule (.store off) s = .ok ((s.setCell (s.frameAddr off).toNat (valueAt s (s.sp.toInt - 1))).setSp
      (s.sp.toInt - 1)).advance := by
  obtain ⟨hcount, hread⟩ := top_eq_ok.mp (h1.top_eq hf)
  obtain ⟨-, hcap, -⟩ := hf
  have hcell : s.frameAddr off < s.cfg.maxStackSize := by omega
  simp only [rule, bind_eq_ok, require_eq_ok, checkAddr_eq_ok, memWrite_eq_ok]
  exact ⟨(), hcount, (), ⟨h0, hlt⟩, _, hread, _, ⟨⟨h0, hcell⟩, rfl⟩, rfl⟩

/-- STORESTACK through an address below its operands writes the lower one there and pops both (R137). -/
theorem TwoOperands.rule_storestack (h2 : TwoOperands s) (hf : FrameOK s)
    (h0 : 0 ≤ s.frameAddr (valueAt s (s.sp.toInt - 1)))
    (hlt : s.frameAddr (valueAt s (s.sp.toInt - 1)) < s.sp.toInt - 2) :
    rule .storestack s = .ok ((s.setCell (s.frameAddr (valueAt s (s.sp.toInt - 1))).toNat
      (valueAt s (s.sp.toInt - 2))).setSp (s.sp.toInt - 2)).advance := by
  obtain ⟨hvalue, haddr⟩ := h2.memRead_eq hf
  obtain ⟨hcount, -, -⟩ := h2
  obtain ⟨-, hcap, -⟩ := hf
  have hcell : s.frameAddr (valueAt s (s.sp.toInt - 1)) < s.cfg.maxStackSize := by omega
  simp only [rule, bind_eq_ok, require_eq_ok, checkAddr_eq_ok, memWrite_eq_ok]
  exact ⟨(), hcount, _, haddr, (), ⟨h0, hlt⟩, _, hvalue, _, ⟨⟨h0, hcell⟩, rfl⟩, rfl⟩

/-! ### The obligations -/

/-- Settles O32: each of the four is `roomPush` of its word; sp - bp and pc + delta wrap as words do. -/
theorem pushingInstructionsResults : Obligations.PushingInstructionsResults := by
  refine fun s hf hroom => ⟨fun imm => hroom.pushResult hf rfl, hroom.pushResult hf rfl, ?_, fun delta => ?_⟩
  · rw [← wrap_sub]
    exact hroom.pushResult hf rfl
  · rw [← wrap_add]
    exact hroom.pushResult hf rfl

/-- Settles O35: the window of LOAD lies inside the memory, so its checks pass (`RoomForOne.rule_load`). -/
theorem loadResult : Obligations.LoadResult := fun s _ hf hroom h0 hlt hread =>
  exec_of_cellWrite (hroom.rule_load hf h0 hlt hread) (wrap_add_one s.sp)

/-- Settles O36: the window of STORE lies inside the memory, so its checks pass (`OneOperand.rule_store`). -/
theorem storeResult : Obligations.StoreResult := fun s _ hf h1 h0 hlt =>
  exec_of_cellWrite (h1.rule_store hf h0 hlt) (wrap_sub_one s.sp)

/-- Settles O37: the window of STORESTACK lies inside the memory, so its checks pass
(`TwoOperands.rule_storestack`). -/
theorem storestackResult : Obligations.StorestackResult := fun s hf h2 h0 hlt =>
  exec_of_cellWrite (h2.rule_storestack hf h0 hlt) (wrap_sub_two s.sp)

/-- Settles O34: `Require` is the only check of POP, which reads no cell. -/
theorem popResult : Obligations.PopResult := by
  intro s hcount
  have hrule : rule .pop s = .ok (s.setSp (s.sp.toInt - 1)).advance :=
    bind_eq_ok.mpr ⟨(), require_eq_ok.mpr hcount, rfl⟩
  rw [← wrap_sub_one, ← wrap_add_one]
  exact exec_eq_next.mpr (.inl hrule)

end Sys2Proof.Machine

/-! The statements about the jumps of 42_control.md. A conditional jump is `jumpWhen` of a predicate on its
condition, so both are one rule read with two predicates. -/

namespace Sys2Proof.Machine

variable {s : State} {i : Instr} {taken : Word → Bool} {delta : Word}

/-- A conditional jump whose condition is there pops it and jumps where its predicate says so. -/
theorem OneOperand.exec_of_jumpWhen {p : Prop} [Decidable p] (h1 : OneOperand s) (hf : FrameOK s)
    (hrule : rule i s = jumpWhen taken delta s) (hp : taken (valueAt s (s.sp.toInt - 1)) = true ↔ p) :
    exec i s = .next { s with sp := s.sp - 1, pc := if p then s.pc + delta else s.pc + 1 } := by
  have hok := hrule.trans (jumpWhen_eq_ok.mpr ⟨_, h1.top_eq hf, rfl⟩)
  simp only [hp] at hok
  rw [exec_eq_next.mpr (.inl hok), ← wrap_sub_one, ← wrap_add, ← wrap_add_one]
  split <;> rfl

/-- Settles O42: neither jump has a check; JUMP adds to the index at which it stands itself. -/
theorem jumpResults : Obligations.JumpResults := by
  refine fun s w => ⟨exec_eq_next.mpr (.inl rfl), ?_⟩
  rw [← wrap_add]
  exact exec_eq_next.mpr (.inl rfl)

/-- Settles O43: JMPT takes the jump on a truthy word, JMPF on a falsy one. -/
theorem conditionalJumpResults : Obligations.ConditionalJumpResults := fun _ _ hf h1 =>
  ⟨h1.exec_of_jumpWhen hf rfl (by simp [truthy]), h1.exec_of_jumpWhen hf rfl (by simp [truthy])⟩

end Sys2Proof.Machine

/-! The statements about call frames of 43_frames.md. UNFRAME and PUSHSTACK each write one cell and then registers;
POPSTACK and RETURN write registers only. What POPSTACK answers turns on its link, so its rule past each check has
a lemma of its own. -/

namespace Sys2Proof.Machine

variable {s : State} {link : Word}

/-! ### UNFRAME and RETURN: a readable operand -/

/-- The two readings of sp after UNFRAME, as words (R161, D15). -/
theorem wrap_unframeSp : wrap (unframeSp s) = if s.cfg.unframePops = true then s.sp - 1 else s.sp := by
  unfold unframeSp
  split
  · exact wrap_sub_one s.sp
  · exact wrap_toInt s.sp

/-- UNFRAME of a readable operand writes rv over the return address, zeroes rv and goes there (R161). -/
theorem OneOperand.rule_unframe (h1 : OneOperand s) (hf : FrameOK s) :
    rule .unframe s = .ok ((((s.setCell (s.sp.toInt - 1).toNat s.rv).setRv 0).setSp (unframeSp s)).setPc
      (valueAt s (s.sp.toInt - 1))) := by
  have htop := h1.top_eq hf
  obtain ⟨-, hread⟩ := top_eq_ok.mp htop
  obtain ⟨hcell, -, -⟩ := memRead_eq_ok.mp hread
  exact rule_unframe_eq_ok.mpr ⟨_, htop, _, memWrite_eq_ok.mpr ⟨hcell, rfl⟩, rfl⟩

/-! ### PUSHSTACK: room for one cell -/

/-- PUSHSTACK with room pushes bp and makes bp the new sp (R162). -/
theorem RoomForOne.rule_pushstack (hroom : RoomForOne s) (hf : FrameOK s) :
    rule .pushstack s = .ok (((s.setCell s.sp.toInt.toNat s.bp).setSp (s.sp.toInt + 1)).setBp
      (wrap (s.sp.toInt + 1))).advance := by
  obtain ⟨hsp, -⟩ := hf
  exact bind_eq_ok.mpr ⟨_, roomPush_eq_ok.mpr ⟨hroom, hsp, rfl⟩, rfl⟩

/-! ### POPSTACK: the enclosing frame and its link -/

/-- A cell of the memory that is undefined raises when it is read, under UNINIT_CHECK (R66). -/
theorem memRead_undefined {a : Int} (h0 : 0 ≤ a) (h1 : a < s.cfg.maxStackSize) (hc : s.cfg.uninitCheck = true)
    (hd : s.isDefined a.toNat = false) : memRead s a = .error (.undefinedRead a) :=
  memRead_eq_error.mpr (.inr ⟨⟨h0, h1⟩, hc, hd, rfl⟩)

/-- The cell of the saved link lies in the memory (R40). -/
theorem linkAddr_bounds (hf : FrameOK s) (hb : 1 ≤ s.bp.toInt) :
    0 ≤ s.bp.toInt - 1 ∧ s.bp.toInt - 1 < s.cfg.maxStackSize := by
  obtain ⟨-, -, -, hcap, -⟩ := hf
  omega

theorem rule_popstack_of_outermost (hb : s.bp.toInt < 1) :
    rule .popstack s = .error (.frameInvariantViolation .noEnclosingFrame) := if_pos hb

/-- In an enclosed frame POPSTACK first reads the link (R165). -/
theorem rule_popstack_of_enclosed (hb : 1 ≤ s.bp.toInt) :
    rule .popstack s = (memRead s s.linkAddr).bind fun link =>
      (checkLink s link).bind fun _ => .ok ((s.setSp s.linkAddr).setBp link).advance := if_neg hb.not_gt

/-- With its link read, POPSTACK checks it before it writes (R165, D14). -/
theorem rule_popstack_of_link (hb : 1 ≤ s.bp.toInt) (hread : memRead s (s.bp.toInt - 1) = .ok link) :
    rule .popstack s =
      (checkLink s link).bind fun _ => .ok ((s.setSp (s.bp.toInt - 1)).setBp link).advance := by
  rw [rule_popstack_of_enclosed hb, State.linkAddr, hread, ok_bind]

/-- POPSTACK follows a link in [0, bp - 1] (R165). -/
theorem exec_popstack_of_link (hb : 1 ≤ s.bp.toInt) (hread : memRead s (s.bp.toInt - 1) = .ok link)
    (hlink : 0 ≤ link.toInt ∧ link.toInt ≤ s.bp.toInt - 1) :
    exec .popstack s = .next { s with sp := s.bp - 1, bp := link, pc := s.pc + 1 } := by
  have hcheck := checkLink_eq_ok (u := ()).mpr hlink
  rw [← wrap_sub_one, ← wrap_add_one]
  exact exec_eq_next.mpr (.inl ((rule_popstack_of_link hb hread).trans (bind_eq_ok.mpr ⟨(), hcheck, rfl⟩)))

/-! ### The obligations -/

/-- Settles O44: the cell UNFRAME writes is the one it has read, so only its operand can fail
(`OneOperand.rule_unframe`). -/
theorem unframeResult : Obligations.UnframeResult := by
  refine fun s hf h1 => ⟨_, ?_, writesCell_insert s.rv⟩
  rw [← wrap_unframeSp]
  exact exec_eq_next.mpr (.inl (h1.rule_unframe hf))

/-- Settles O45: `Room` is the only check of PUSHSTACK (`RoomForOne.rule_pushstack`). -/
theorem pushstackResult : Obligations.PushstackResult := by
  refine fun s hf hroom => ⟨_, ?_, writesCell_insert s.bp⟩
  rw [← wrap_add_one s.sp, ← wrap_add_one s.pc]
  exact exec_eq_next.mpr (.inl (hroom.rule_pushstack hf))

/-- Settles O46: the checks of POPSTACK in their order, no enclosing frame, an undefined link, a link outside
[0, bp - 1]. -/
theorem popstackResult : Obligations.PopstackResult := by
  intro s hf link
  refine ⟨fun hb => ?_, fun hb hr => ?_, fun hb hc hd => ?_⟩
  · exact exec_eq_next.mpr (.inr ⟨_, rule_popstack_of_outermost hb, rfl⟩)
  · obtain ⟨h0, hcap⟩ := linkAddr_bounds hf hb
    have hread : memRead s (s.bp.toInt - 1) = .ok link := memRead_readable h0 hcap hr
    exact ⟨fun hmin hmax => exec_popstack_of_link hb hread ⟨hmin, hmax⟩,
      fun hbad => raises_of_firstCheck (checkLink_eq_error.mpr ⟨hbad, rfl⟩) (rule_popstack_of_link hb hread)⟩
  · obtain ⟨h0, hcap⟩ := linkAddr_bounds hf hb
    exact raises_of_firstCheck (memRead_undefined h0 hcap hc hd) (rule_popstack_of_enclosed hb)

/-- Settles O47: with its operand there, RETURN has no check left (`rule_ret_eq_ok`). -/
theorem returnResult : Obligations.ReturnResult := by
  intro s hf h1
  rw [← wrap_sub_one, ← wrap_add_one]
  exact exec_eq_next.mpr (.inl (rule_ret_eq_ok.mpr ⟨_, h1.top_eq hf, rfl⟩))

end Sys2Proof.Machine

/-! The statement about the output instructions of 44_io.md. PRINTC and PRINTINT are one rule, `printTop`, read with
two kinds of event. -/

namespace Sys2Proof.Machine

variable {s : State} {i : Instr} {k : OutKind}

/-- A print whose operand is there, and which the host accepts, pops it into OUT and completes (R79). -/
theorem OneOperand.exec_of_printTop (h1 : OneOperand s) (hf : FrameOK s) (hr : s.ready.now = true)
    (hrule : rule i s = printTop k s) :
    exec i s = .next { s with
      sp := s.sp - 1, pc := s.pc + 1, out := s.out ++ [⟨k, valueAt s (s.sp.toInt - 1)⟩]
      offer := none, ready := s.ready.later } := by
  rw [← wrap_sub_one, ← wrap_add_one]
  exact exec_eq_next.mpr (.inl (hrule.trans (printTop_of_accepted k hf h1 hr)))

/-- Settles O50: both prints are `printTop`, PRINTC's of the kind CHAR and PRINTINT's of the kind INT. -/
theorem printResults : Obligations.PrintResults := fun _ hf h1 hr =>
  ⟨h1.exec_of_printTop hf hr rfl, h1.exec_of_printTop hf hr rfl⟩

end Sys2Proof.Machine

/-! The statements about halting of 60_exceptions.md. A step goes on, ends normally or raises (`step_outcome`), and a
raise writes run, err and the offered event alone. What the front end answers at each pc, and which slots the loader
writes, complete them. -/

namespace Sys2Proof.Machine

variable {s t : State} {i : Instr} {sl : Slot}

/-! ### What a halt leaves behind -/

theorem FatalError.code_ne_none (e : FatalError) : e.code ≠ .none := by
  cases e <;> exact nofun

/-- An instruction that completes touches neither run nor err (R204). -/
theorem Shape.run_err_eq (h : Shape s i t) : t.run = s.run ∧ t.err = s.err := by
  cases h <;> exact ⟨rfl, rfl⟩

/-- An instruction halts a running core by a raise only. -/
theorem exec_halts_by_raise (hrun : s.run = .running) (h : exec i s = .next t) (ht : t.run = .halted) :
    ∃ e, t = s.raise e := by
  rcases exec_shape h with hs | hraise
  · obtain ⟨hkept, -⟩ := hs.run_err_eq
    simp [hkept, hrun] at ht
  · exact hraise

/-- A step leaves the core running with its err, ends normally at pc = N, or raises (R204). -/
theorem step_outcome (h : step s = .next t) :
    (t.run = .running ∧ t.err = s.err) ∨ (FrameOK s ∧ s.pc.toInt = s.progLen ∧ t = s.haltWith .none) ∨
      ∃ e, t = s.raise e := by
  obtain ⟨-, hrun, hc⟩ := step_eq_next h
  cases hc with
  | completed i _ hr =>
    obtain ⟨hrunEq, herr⟩ := (rule_shape hr).run_err_eq
    exact .inl ⟨hrunEq.trans hrun, herr⟩
  | finish hf hpc ht => exact .inr (.inl ⟨hf, hpc, ht⟩)
  | frameCheck _ ht | pcBounds _ _ ht | unknownOp _ _ ht | raised _ _ _ _ ht => exact .inr (.inr ⟨_, ht⟩)

/-! ### The front end at each pc -/

theorem frontEnd_of_pc_eq (hr : Running s) (hf : FrameOK s) (hpc : s.pc.toInt = s.progLen) :
    frontEnd s = .inl (.next (s.haltWith .none)) := by
  obtain ⟨hrst, hrun⟩ := hr
  simp [frontEnd, hrst, hrun, hf, hpc]

theorem frontEnd_of_pc_outside (hr : Running s) (hf : FrameOK s)
    (hpc : s.pc.toInt < 0 ∨ s.progLen < s.pc.toInt) :
    frontEnd s = .inl (.next (s.raise (.programCounterOutOfBounds s.pc.toInt))) := by
  obtain ⟨hrst, hrun⟩ := hr
  have hlen : 0 ≤ s.progLen := Int.natCast_nonneg _
  have hne : s.pc.toInt ≠ s.progLen := by omega
  simp [frontEnd, hrst, hrun, hf, hne, hpc]

theorem frontEnd_of_pc_inside (hr : Running s) (hf : FrameOK s) (h0 : 0 ≤ s.pc.toInt)
    (hlt : s.pc.toInt < s.progLen) : frontEnd s = dispatch s := by
  obtain ⟨hrst, hrun⟩ := hr
  simp [frontEnd, hrst, hrun, hf, hlt.ne, h0.not_gt, hlt.not_gt]

theorem frameOK_hostReset (s : State) : FrameOK s.hostReset :=
  ⟨le_rfl, Int.natCast_nonneg _, le_rfl, Int.natCast_nonneg _, le_rfl⟩

/-! ### Ops outside the map -/

/-- The op alone makes a slot unknown (R97, R207). -/
theorem decode_of_unknownOp (h : 33 ≤ sl.op.toNat) : decode sl = .error (.unknownOpcode sl.op) := by
  unfold decode
  split
  case h_34 => rfl
  all_goals omega

theorem dispatch_of_unknownOp (h0 : 0 ≤ s.pc.toInt) (hsl : s.imem[s.pc.toInt.toNat]? = some sl)
    (hop : 33 ≤ sl.op.toNat) : dispatch s = .inl (.next (s.raise (.unknownOpcode sl.op))) := by
  simp [dispatch, fetch, h0, hsl, decode_of_unknownOp hop]

theorem le_32_of_opcodeArity {n k : Nat} (h : opcodeArity n = some k) : n ≤ 32 := by
  unfold opcodeArity at h
  split at h
  case h_10 => exact (Option.ite_none_right_eq_some.mp h).1
  all_goals omega

/-- A tag with an arity is an op of the map, so the op field holds it unchanged (R93, R95). -/
theorem loadedSlot_op_le {tag operand : Int} {k : Nat} (h : tagArity tag = some k) :
    (loadedSlot tag operand).op.toNat ≤ 32 := by
  obtain ⟨h0, harity⟩ := Option.ite_none_right_eq_some.mp h
  have hle := le_32_of_opcodeArity harity
  simp only [loadedSlot, BitVec.toNat_ofInt]
  omega

/-- A slot of a program the loader extended is the slot it put in front or one of those behind it. -/
theorem mem_of_map_cons {r : Except LoadError (List Slot)} {new : Slot} {prog : List Slot}
    (h : r.map (new :: ·) = .ok prog) (hsl : sl ∈ prog) : sl = new ∨ ∃ tail, r = .ok tail ∧ sl ∈ tail := by
  cases r with
  | error e => cases h
  | ok tail =>
    obtain rfl := Except.ok.inj h
    exact (List.mem_cons.mp hsl).imp_right fun hmem => ⟨tail, rfl, hmem⟩

/-- Every slot the loader writes is that of a tag which has an arity (R93). -/
theorem mem_of_loadTokens {room : Nat} {ts : List Text} {prog : List Slot}
    (h : loadTokens room ts = .ok prog) (hsl : sl ∈ prog) :
    ∃ tag k operand, tagArity tag = some k ∧ sl = loadedSlot tag operand := by
  induction room, ts using loadTokens.induct generalizing prog with
  | case5 t rest tag ht room harity ih =>
    simp only [loadTokens, ht, harity] at h
    rcases mem_of_map_cons h hsl with rfl | ⟨tail, htail, hmem⟩
    · exact ⟨tag, 0, 0, harity, rfl⟩
    · exact ih htail hmem
  | case8 t tag ht k room hk harity o rest operand ho ih =>
    simp only [loadTokens, ht, harity, ho] at h
    rcases mem_of_map_cons h hsl with rfl | ⟨tail, htail, hmem⟩
    · exact ⟨tag, k, operand, harity, rfl⟩
    · exact ih htail hmem
  | case1 | case2 | case3 | case4 | case6 | case7 => simp_all [loadTokens] -- no token, or a refusal

/-! ### The obligations -/

/-- Settles O11: the op alone makes `decode` fail, and the loader writes only ops of tags that have an arity. -/
theorem unknownOpcodeRaises : Obligations.UnknownOpcodeRaises := by
  refine ⟨fun s sl hr hf h0 hsl hop => ?_, fun depth text prog h sl hsl => ?_⟩
  · have hlt : s.pc.toInt < s.progLen := by
      obtain ⟨hlt, -⟩ := List.getElem?_eq_some_iff.mp hsl
      exact (Int.toNat_lt h0).mp hlt
    rw [step, frontEnd_of_pc_inside hr hf h0 hlt, dispatch_of_unknownOp h0 hsl hop]
  · obtain ⟨tag, k, operand, harity, rfl⟩ := mem_of_loadTokens h hsl
    exact loadedSlot_op_le harity

/-- Settles O13: the outcomes of a step, and the only way an instruction halts. -/
theorem waysToHalt : Obligations.WaysToHalt := by
  refine ⟨fun _ => rfl, fun s t h herr => ?_, fun i s t hrun h ht => ?_⟩
  · rcases step_outcome h with ⟨hrun, hkept⟩ | ⟨hf, hpc, rfl⟩ | ⟨e, rfl⟩
    · exact .inl ⟨hrun, hkept.trans herr⟩
    · exact .inr (.inl ⟨rfl, rfl, hf, hpc⟩)
    · exact .inr (.inr ⟨rfl, e.code_ne_none⟩)
  · obtain ⟨e, rfl⟩ := exec_halts_by_raise hrun h ht
    exact e.code_ne_none

/-- Settles O14: a step that halts with an error has raised, and a raise keeps everything but run, err and the
offered event. -/
theorem raiseChangesOnlyRunAndErr : Obligations.RaiseChangesOnlyRunAndErr := by
  refine ⟨fun s t h ht herr => ?_, fun i s t => exec_halts_by_raise⟩
  rcases step_outcome h with ⟨hrun, -⟩ | ⟨-, -, rfl⟩ | ⟨e, rfl⟩
  · simp [hrun] at ht
  · exact absurd rfl herr
  · exact ⟨rfl, rfl, rfl, rfl, rfl, rfl, rfl⟩

/-- Settles O10: the front end at each pc outside the program; after reset, pc is 0, which is N where there is no
program. -/
theorem terminationAndPcBounds : Obligations.TerminationAndPcBounds := by
  refine ⟨fun s hr hf => ⟨fun hpc => ?_, fun hpc => ?_⟩, fun s hempty => ?_⟩
  · rw [step, frontEnd_of_pc_eq hr hf hpc]
    rfl
  · rw [step, frontEnd_of_pc_outside hr hf hpc]
  · have hpc : s.hostReset.pc.toInt = s.hostReset.progLen := by
      rw [State.progLen, show s.hostReset.imem = [] from hempty]
      rfl
    rw [step, frontEnd_of_pc_eq ⟨rfl, rfl⟩ (frameOK_hostReset s) hpc]
    rfl

end Sys2Proof.Machine

/-! The statements about the encoding of 30_encoding.md. The slot that `encode` gives an instruction is fixed by what
`decode` reads (`encode_of_decode`), so each direction of the round trip serves the other. -/

namespace Sys2Proof

open Machine

variable {sl : Slot} {i : Instr}

/-- The fields of the packed form lie side by side (R92), so unpacking reads each back. -/
theorem Slot.unpack_pack (sl : Slot) : Slot.unpack sl.pack = sl := by
  obtain ⟨op, a, b⟩ := sl
  have hop : (op ++ a ++ b).extractLsb' 64 8 = op := by
    rw [BitVec.extractLsb'_append_eq_of_le (by decide), BitVec.extractLsb'_append_eq_left]
  have ha : (op ++ a ++ b).extractLsb' 32 32 = a := by
    rw [BitVec.extractLsb'_append_eq_of_le (by decide), BitVec.extractLsb'_append_eq_right]
  have hb : (op ++ a ++ b).extractLsb' 0 32 = b := BitVec.extractLsb'_append_eq_right
  exact congr (congrArg₂ Slot.mk hop ha) hb

theorem decode_encode (i : Instr) : decode (encode i) = .ok i := by
  cases i <;> rfl

/-- What `decode` reads: the op is the ordinal of the instruction, and field `a` the operand if it has one (R96). -/
theorem decode_eq_ok (h : decode sl = .ok i) :
    sl.op.toNat = i.ordinal ∧ (i.operand = none ∨ i.operand = some sl.a) := by
  unfold decode at h
  split at h
  case h_34 => cases h
  all_goals
    obtain rfl := Except.ok.inj h
    exact ⟨by assumption, by simp [Instr.operand]⟩

/-- An op of the map selects an instruction (R97). -/
theorem decode_of_knownOp (h : sl.op.toNat ≤ 32) : ∃ i, decode sl = .ok i := by
  unfold decode
  split
  case h_34 => exfalso; grind -- none of the 33 values below 33 is left
  all_goals exact ⟨_, rfl⟩

/-- The encoding of a decoded instruction is the slot it came from with the reserved fields cleared. -/
theorem encode_of_decode (h : decode sl = .ok i) : encode i = ⟨sl.op, i.operand.getD 0, 0⟩ := by
  obtain ⟨hop, -⟩ := decode_eq_ok h
  rw [encode, ← hop, BitVec.ofNat_toNat, BitVec.setWidth_eq]

theorem opcodeArity_ordinal (i : Instr) : opcodeArity i.ordinal = some i.operand.toList.length := by
  cases i <;> rfl

theorem arityOneOrdinals_contains_ordinal (i : Instr) :
    arityOneOrdinals.contains i.ordinal = i.operand.isSome := by
  cases i <;> rfl

/-- The loader leaves 0 in every reserved field (R93, R94). -/
theorem Slot.wellFormed_iff : sl.wellFormed = true ↔
    sl.op.toNat ≤ 32 ∧ sl.b = 0 ∧ (arityOneOrdinals.contains sl.op.toNat = true ∨ sl.a = 0) := by
  simp only [Slot.wellFormed, Bool.and_eq_true, Bool.or_eq_true, decide_eq_true_eq, and_assoc]

/-- An opcode of arity 0 decodes as if its reserved fields were 0 (R94). -/
theorem decode_of_arityZero (h : opcodeArity sl.op.toNat = some 0) : decode sl = decode ⟨sl.op, 0, 0⟩ := by
  obtain ⟨i, hi⟩ := decode_of_knownOp (le_32_of_opcodeArity h)
  obtain ⟨hop, -⟩ := decode_eq_ok hi
  have hnone : i.operand = none := by
    rw [hop, opcodeArity_ordinal] at h
    simpa using h
  have hslot := encode_of_decode hi
  rw [hnone, Option.getD_none] at hslot
  rw [hi, ← hslot, decode_encode]

/-! ### The token stream of an instruction -/

theorem Instr.ordinal_le (i : Instr) : i.ordinal ≤ 32 := le_32_of_opcodeArity (opcodeArity_ordinal i)

theorem Instr.tokens_of_none {i : Instr} (h : i.operand = none) : i.tokens = [(i.ordinal : Int)] := by
  rw [Instr.tokens, h]

theorem Instr.tokens_of_some {i : Instr} {w : Word} (h : i.operand = some w) :
    i.tokens = [(i.ordinal : Int), w.toInt] := by
  rw [Instr.tokens, h]

/-- A token stream starts with a tag (R90). -/
theorem Instr.tokens_eq_cons (i : Instr) : ∃ xs, i.tokens = (i.ordinal : Int) :: xs := by
  rw [Instr.tokens]
  cases i.operand <;> exact ⟨_, rfl⟩

/-! ### The obligations -/

/-- Settles O1, by evaluating the decoder on each word. -/
theorem writtenOutWordsDecode : Obligations.WrittenOutWordsDecode :=
  ⟨rfl, rfl, rfl, rfl, rfl, rfl, rfl, rfl, rfl, rfl⟩

/-- Settles O2: unpacking undoes packing (`Slot.unpack_pack`), decoding undoes encoding (`decode_encode`). -/
theorem decodeOfEncodeIsIdentity : Obligations.DecodeOfEncodeIsIdentity := fun i =>
  (congrArg decode (encode i).unpack_pack).trans (decode_encode i)

/-- Settles O3: in a well-formed slot the reserved fields are clear already. -/
theorem encodeOfDecodeIsIdentity : Obligations.EncodeOfDecodeIsIdentity := by
  intro sl i hwf h
  obtain ⟨hop, hoperand⟩ := decode_eq_ok h
  obtain ⟨-, hb, ha⟩ := Slot.wellFormed_iff.mp hwf
  have hfield : i.operand.getD 0 = sl.a := by
    rcases hoperand with hnone | hsome
    · rw [hop, arityOneOrdinals_contains_ordinal, hnone] at ha
      rw [hnone]
      exact (ha.resolve_left (by simp)).symm
    · rw [hsome, Option.getD_some]
  rw [encode_of_decode h, hfield, ← hb]

/-- Settles O4: an op of arity 0 decodes as with its reserved fields 0, any other op reads field `a` alone, and an
op of the map always selects. -/
theorem opAloneSelects : Obligations.OpAloneSelects := by
  refine ⟨fun sl sl' hop h => ?_, fun sl => ⟨fun h => ?_, decode_of_unknownOp⟩⟩
  · rcases h with ha | harity
    · exact congrArg₂ (fun op a => decode ⟨op, a, 0⟩) hop ha
    · rw [decode_of_arityZero harity, decode_of_arityZero (sl := sl') (hop ▸ harity), hop]
  · by_contra hlt
    obtain ⟨i, hi⟩ := decode_of_knownOp (sl := sl) (by omega)
    rw [hi] at h
    cases h

end Sys2Proof

/-! The statements about the loader of 30_encoding.md and the text of an INT event (20_memory.md R81). A decimal text
reads back as its number, the tokens of a token stream are its decimal texts, and one lemma about the loop of R93
past a program (`loadTokens_program`) serves every statement about a stream that begins with one. -/

namespace Sys2Proof.Machine

/-! ### Digits -/

theorem digitByte_toNat {d : Nat} (h : d < 10) : (digitByte d).toNat = 48 + d := by
  rw [digitByte, BitVec.toNat_ofNat]
  omega

theorem isDigit_iff {c : Byte} : isDigit c = true ↔ 48 ≤ c.toNat ∧ c.toNat ≤ 57 := by
  rw [isDigit, Bool.and_eq_true, decide_eq_true_iff, decide_eq_true_iff]

theorem isDigit_digitByte {d : Nat} (h : d < 10) : isDigit (digitByte d) = true := by
  rw [isDigit_iff, digitByte_toNat h]
  omega

theorem isSpace_of_isDigit {c : Byte} (h : isDigit c = true) : isSpace c = false := by
  obtain ⟨hlo, -⟩ := isDigit_iff.mp h
  have hne : c ≠ 0x20 := by
    rintro rfl
    exact absurd hlo (by decide)
  have hgt : ¬ c.toNat ≤ 0x0D := by omega
  rw [isSpace, decide_eq_false hne, decide_eq_false hgt, Bool.and_false, Bool.or_false]

theorem digitsValue_append (n : Nat) (xs ys : Text) :
    digitsValue n (xs ++ ys) = digitsValue (digitsValue n xs) ys := by
  induction xs generalizing n with
  | nil => rfl
  | cons c xs ih => exact ih _

theorem digitsValue_singleton (n : Nat) (c : Byte) : digitsValue n [c] = 10 * n + (c.toNat - 48) := rfl

theorem digitsValue_digitByte (n : Nat) {d : Nat} (h : d < 10) : digitsValue n [digitByte d] = 10 * n + d := by
  rw [digitsValue_singleton, digitByte_toNat h]
  omega

theorem digitByte_eq_zero_iff {d : Nat} (h : d < 10) : digitByte d = 0x30 ↔ d = 0 := by
  rw [← BitVec.toNat_inj, digitByte_toNat h]
  exact Nat.add_eq_left

theorem digitByte_ne_sign {d : Nat} (h : d < 10) : digitByte d ≠ 0x2D ∧ digitByte d ≠ 0x2B := by
  have hlo : 48 ≤ (digitByte d).toNat := by rw [digitByte_toNat h]; omega
  exact ⟨fun heq => absurd (heq ▸ hlo) (by decide), fun heq => absurd (heq ▸ hlo) (by decide)⟩

/-! ### The decimal digits of a number -/

theorem decimalDigits_of_lt (fuel : Nat) {n : Nat} (h : n < 10) : decimalDigits (fuel + 1) n = [digitByte n] :=
  if_pos h

theorem decimalDigits_of_ge (fuel : Nat) {n : Nat} (h : 10 ≤ n) :
    decimalDigits (fuel + 1) n = decimalDigits fuel (n / 10) ++ [digitByte (n % 10)] :=
  if_neg h.not_gt

/-- Digits written out read back as their number, where the fuel suffices. -/
theorem digitsValue_decimalDigits {fuel n : Nat} (h : n < 10 ^ fuel) :
    digitsValue 0 (decimalDigits fuel n) = n := by
  induction fuel generalizing n with
  | zero =>
    obtain rfl : n = 0 := Nat.lt_one_iff.mp h
    rfl
  | succ fuel ih =>
    rcases Nat.lt_or_ge n 10 with hn | hn
    · rw [decimalDigits_of_lt fuel hn, digitsValue_digitByte 0 hn, Nat.mul_zero, Nat.zero_add]
    · have hdiv : n / 10 < 10 ^ fuel := by omega
      rw [decimalDigits_of_ge fuel hn, digitsValue_append, ih hdiv, digitsValue_digitByte _ (by omega)]
      omega

theorem isDigit_of_mem_decimalDigits {fuel n : Nat} {c : Byte} (h : c ∈ decimalDigits fuel n) :
    isDigit c = true := by
  induction fuel generalizing n with
  | zero => cases h
  | succ fuel ih =>
    rcases Nat.lt_or_ge n 10 with hn | hn
    · rw [decimalDigits_of_lt fuel hn, List.mem_singleton] at h
      exact h ▸ isDigit_digitByte hn
    · rw [decimalDigits_of_ge fuel hn, List.mem_append, List.mem_singleton] at h
      rcases h with h | rfl
      · exact ih h
      · exact isDigit_digitByte (by omega)

/-- The first digit is 0 for the number 0 only (R81: no leading zeros). -/
theorem decimalDigits_eq_cons {fuel n : Nat} (h : n < 10 ^ (fuel + 1)) :
    ∃ d rest, decimalDigits (fuel + 1) n = digitByte d :: rest ∧ d < 10 ∧ (d = 0 → n = 0) := by
  induction fuel generalizing n with
  | zero => exact ⟨n, [], decimalDigits_of_lt 0 h, h, id⟩
  | succ fuel ih =>
    rcases Nat.lt_or_ge n 10 with hn | hn
    · exact ⟨n, [], decimalDigits_of_lt _ hn, hn, id⟩
    · obtain ⟨d, rest, hdigits, hd, hzero⟩ := ih (n := n / 10) (by omega)
      refine ⟨d, rest ++ [digitByte (n % 10)], ?_, hd, fun h0 => ?_⟩
      · rw [decimalDigits_of_ge _ hn, hdigits, List.cons_append]
      · have := hzero h0
        omega

/-! ### The decimal text of a word -/

/-- Ten digits hold every word. -/
theorem natAbs_lt_of_isWord {x : Int} (h : IsWord x) : x.natAbs < 10 ^ 10 := by
  simp only [IsWord, intMin, intMax] at h
  omega

theorem decimal_of_neg {x : Int} (h : x < 0) : decimal x = 0x2D :: decimalDigits 10 x.natAbs := if_pos h

theorem decimal_of_nonneg {x : Int} (h : 0 ≤ x) : decimal x = decimalDigits 10 x.natAbs := if_neg h.not_gt

/-- The digits of a word are a run of digits that reads back as its magnitude. -/
theorem parseDigits_decimalDigits {x : Int} (h : IsWord x) :
    parseDigits (decimalDigits 10 x.natAbs) = some (x.natAbs : Int) := by
  have hlt := natAbs_lt_of_isWord h
  obtain ⟨d, rest, hdigits, -⟩ := decimalDigits_eq_cons hlt
  have hne : decimalDigits 10 x.natAbs ≠ [] := hdigits ▸ List.cons_ne_nil _ _
  have hall : (decimalDigits 10 x.natAbs).all isDigit = true :=
    List.all_eq_true.mpr fun c => isDigit_of_mem_decimalDigits
  rw [parseDigits, if_pos ⟨hne, hall⟩, digitsValue_decimalDigits hlt]

/-- A text that begins with a digit has no sign. -/
theorem parseInteger_of_isDigit {c : Byte} {rest : Text} (h : isDigit c = true) :
    parseInteger (c :: rest) = parseDigits (c :: rest) := by
  obtain ⟨hlo, -⟩ := isDigit_iff.mp h
  have hminus : c ≠ 0x2D := by
    rintro rfl
    exact absurd hlo (by decide)
  have hplus : c ≠ 0x2B := by
    rintro rfl
    exact absurd hlo (by decide)
  rw [parseInteger, if_neg hminus, if_neg hplus]

theorem parseInteger_decimal {x : Int} (h : IsWord x) : parseInteger (decimal x) = some x := by
  have hparse := parseDigits_decimalDigits h
  rcases lt_or_ge x 0 with hneg | hnonneg
  · rw [decimal_of_neg hneg, parseInteger, if_pos rfl, hparse, Option.map_some, Int.ofNat_natAbs_of_nonpos hneg.le,
      neg_neg]
  · obtain ⟨d, rest, hdigits, hd, -⟩ := decimalDigits_eq_cons (natAbs_lt_of_isWord h)
    rw [hdigits] at hparse
    rw [decimal_of_nonneg hnonneg, hdigits, parseInteger_of_isDigit (isDigit_digitByte hd), hparse,
      Int.natAbs_of_nonneg hnonneg]

/-- The decimal text of a word is a well-formed token with that value (R81, R91). -/
theorem parseToken_decimal {x : Int} (h : IsWord x) : parseToken (decimal x) = .ok x := by
  rw [parseToken, parseInteger_decimal h]
  exact if_pos h

theorem isSpace_of_mem_decimal {x : Int} {c : Byte} (h : c ∈ decimal x) : isSpace c = false := by
  rcases lt_or_ge x 0 with hneg | hnonneg
  · rw [decimal_of_neg hneg, List.mem_cons] at h
    rcases h with rfl | h
    · rfl
    · exact isSpace_of_isDigit (isDigit_of_mem_decimalDigits h)
  · rw [decimal_of_nonneg hnonneg] at h
    exact isSpace_of_isDigit (isDigit_of_mem_decimalDigits h)

/-- A negative number is written as a minus sign and digits that do not start with 0 (R81). -/
theorem decimal_of_neg_eq_cons {x : Int} (h : IsWord x) (hneg : x < 0) :
    ∃ d rest, decimal x = 0x2D :: digitByte d :: rest ∧ d < 10 ∧ d ≠ 0 := by
  obtain ⟨d, rest, hdigits, hd, hzero⟩ := decimalDigits_eq_cons (natAbs_lt_of_isWord h)
  exact ⟨d, rest, by rw [decimal_of_neg hneg, hdigits], hd, fun h0 => by have := hzero h0; omega⟩

/-- Any other number is written as digits that start with 0 for the number 0 only (R81). -/
theorem decimal_of_nonneg_eq_cons {x : Int} (h : IsWord x) (hnonneg : 0 ≤ x) :
    ∃ d rest, decimal x = digitByte d :: rest ∧ d < 10 ∧ (d = 0 → x = 0) := by
  obtain ⟨d, rest, hdigits, hd, hzero⟩ := decimalDigits_eq_cons (natAbs_lt_of_isWord h)
  exact ⟨d, rest, by rw [decimal_of_nonneg hnonneg, hdigits], hd, fun h0 => Int.natAbs_eq_zero.mp (hzero h0)⟩

theorem decimal_ne_nil {x : Int} (h : IsWord x) : decimal x ≠ [] := by
  intro hnil
  have hparse := parseInteger_decimal h
  rw [hnil] at hparse
  cases hparse

/-! ### Tokens -/

/-- A run of bytes that are no whitespace only lengthens the token being read (R91). -/
theorem tokensFrom_append {t : Text} (ht : ∀ c ∈ t, isSpace c = false) (run rest : Text) :
    tokensFrom run (t ++ rest) = tokensFrom (run ++ t) rest := by
  induction t generalizing run with
  | nil => simp
  | cons c t ih =>
    obtain ⟨hc, ht⟩ := List.forall_mem_cons.mp ht
    rw [List.cons_append, tokensFrom, hc, if_neg Bool.false_ne_true, ih ht, List.append_assoc,
      List.singleton_append]

theorem tokens_nil : tokens [] = [] := rfl

theorem tokens_of_token {t : Text} (hne : t ≠ []) (ht : ∀ c ∈ t, isSpace c = false) : tokens t = [t] := by
  have h := tokensFrom_append ht [] []
  rw [List.append_nil, List.nil_append] at h
  rw [tokens, h, tokensFrom, if_neg hne]

theorem tokens_append_space {t : Text} (hne : t ≠ []) (ht : ∀ c ∈ t, isSpace c = false) (rest : Text) :
    tokens (t ++ 0x20 :: rest) = t :: tokens rest := by
  rw [tokens, tokensFrom_append ht, List.nil_append, tokensFrom, if_pos (by decide), if_neg hne, tokens]

theorem tokens_decimal {x : Int} (h : IsWord x) : tokens (decimal x) = [decimal x] :=
  tokens_of_token (decimal_ne_nil h) fun _ => isSpace_of_mem_decimal

theorem tokens_decimal_space {x : Int} (h : IsWord x) (rest : Text) :
    tokens (decimal x ++ 0x20 :: rest) = decimal x :: tokens rest :=
  tokens_append_space (decimal_ne_nil h) (fun _ => isSpace_of_mem_decimal) rest

/-- The tokens of a token stream are the decimal texts of its integers, then those of what follows it. -/
theorem tokens_tokenText {xs : List Int} (h : ∀ x ∈ xs, IsWord x) (rest : Text) :
    tokens (tokenText xs ++ rest) = xs.map decimal ++ tokens rest := by
  induction xs with
  | nil => rfl
  | cons x xs ih =>
    obtain ⟨hx, hxs⟩ := List.forall_mem_cons.mp h
    rw [tokenText, List.append_assoc, List.cons_append, tokens_decimal_space hx, ih hxs, List.map_cons,
      List.cons_append]

/-! ### The token stream of an instruction -/

theorem isWord_of_tag {tag : Nat} (h : tag ≤ 32) : IsWord tag := by
  simp only [IsWord, intMin, intMax]
  omega

theorem isWord_of_mem_tokens {i : Instr} {x : Int} (h : x ∈ i.tokens) : IsWord x := by
  have htag := isWord_of_tag (i.ordinal_le)
  cases hoperand : i.operand with
  | none =>
    rw [Instr.tokens_of_none hoperand, List.mem_singleton] at h
    exact h ▸ htag
  | some w =>
    rw [Instr.tokens_of_some hoperand, List.mem_pair] at h
    rcases h with rfl | rfl
    · exact htag
    · exact toInt_bounds w

/-- The tokens of a text that begins with a program's token stream. -/
theorem tokens_programText (prog : List Instr) (rest : Text) :
    tokens (programText prog ++ rest) = (prog.flatMap Instr.tokens).map decimal ++ tokens rest := by
  refine tokens_tokenText (fun x hx => ?_) rest
  obtain ⟨i, -, hx⟩ := List.mem_flatMap.mp hx
  exact isWord_of_mem_tokens hx

/-! ### The loop of the loader -/

section Loop

variable {room k : Nat} {t o : Text} {tag operand : Int} {e : LoadError}

theorem loadTokens_nil (room : Nat) : loadTokens room [] = .ok [] := by
  rw [loadTokens]

theorem loadTokens_of_badTag (h : parseToken t = .error e) (rest : List Text) :
    loadTokens room (t :: rest) = .error e := by
  rw [loadTokens, h]

theorem loadTokens_of_unknownTag (h : parseToken t = .ok tag) (ha : tagArity tag = none) (rest : List Text) :
    loadTokens room (t :: rest) = .error .unknownOpcodeTag := by
  simp [loadTokens, h, ha]

theorem loadTokens_of_full (h : parseToken t = .ok tag) (ha : tagArity tag = some k) (rest : List Text) :
    loadTokens 0 (t :: rest) = .error .programTooLong := by
  simp [loadTokens, h, ha]

theorem loadTokens_of_arityZero (h : parseToken t = .ok tag) (ha : tagArity tag = some 0) (rest : List Text) :
    loadTokens (room + 1) (t :: rest) = (loadTokens room rest).map (loadedSlot tag 0 :: ·) := by
  simp [loadTokens, h, ha]

theorem loadTokens_of_missingOperand (h : parseToken t = .ok tag) (ha : tagArity tag = some 1) :
    loadTokens (room + 1) [t] = .error .unexpectedEndOfInput := by
  simp [loadTokens, h, ha]

theorem loadTokens_of_badOperand (h : parseToken t = .ok tag) (ha : tagArity tag = some 1)
    (ho : parseToken o = .error e) (rest : List Text) : loadTokens (room + 1) (t :: o :: rest) = .error e := by
  simp [loadTokens, h, ha, ho]

theorem loadTokens_of_arityOne (h : parseToken t = .ok tag) (ha : tagArity tag = some 1)
    (ho : parseToken o = .ok operand) (rest : List Text) :
    loadTokens (room + 1) (t :: o :: rest) = (loadTokens room rest).map (loadedSlot tag operand :: ·) := by
  simp [loadTokens, h, ha, ho]

end Loop

theorem tagArity_natCast (tag : Nat) : tagArity tag = opcodeArity tag := if_pos (Int.natCast_nonneg tag)

theorem tagArity_ordinal (i : Instr) : tagArity i.ordinal = some i.operand.toList.length := by
  rw [tagArity_natCast, opcodeArity_ordinal]

theorem tagArity_of_unknownTag {x : Int} (h : x < 0 ∨ 32 < x) : tagArity x = none := by
  rw [Option.eq_none_iff_forall_ne_some]
  intro k hk
  obtain ⟨h0, harity⟩ := Option.ite_none_right_eq_some.mp hk
  have := le_32_of_opcodeArity harity
  omega

/-- The slot the loader writes for an instruction's tokens is its encoding (R92, R93). -/
theorem loadedSlot_ordinal (i : Instr) (x : Int) (h : wrap x = i.operand.getD 0) :
    loadedSlot i.ordinal x = encode i := by
  rw [loadedSlot, encode, h, BitVec.ofInt_natCast]

theorem parseToken_ordinal (i : Instr) : parseToken (decimal i.ordinal) = .ok (i.ordinal : Int) :=
  parseToken_decimal (isWord_of_tag (i.ordinal_le))

/-- The loop writes one slot for the tokens of one instruction, where a slot is left. -/
theorem loadTokens_instr (room : Nat) (i : Instr) (ts : List Text) :
    loadTokens (room + 1) (i.tokens.map decimal ++ ts) = (loadTokens room ts).map (encode i :: ·) := by
  have harity := tagArity_ordinal i
  cases hoperand : i.operand with
  | none =>
    rw [hoperand] at harity
    rw [Instr.tokens_of_none hoperand, ← loadedSlot_ordinal i 0 (by rw [hoperand]; rfl)]
    exact loadTokens_of_arityZero (parseToken_ordinal i) harity ts
  | some w =>
    rw [hoperand] at harity
    rw [Instr.tokens_of_some hoperand, ← loadedSlot_ordinal i w.toInt (by rw [hoperand, wrap_toInt]; rfl)]
    exact loadTokens_of_arityOne (parseToken_ordinal i) harity (parseToken_decimal (toInt_bounds w)) ts

/-- Past a program the loop goes on with the slots the program has left. -/
theorem loadTokens_program (room : Nat) (prog : List Instr) (ts : List Text) :
    loadTokens (prog.length + room) ((prog.flatMap Instr.tokens).map decimal ++ ts) =
      (loadTokens room ts).map (prog.map encode ++ ·) := by
  induction prog with
  | nil => cases h : loadTokens room ts <;> simp [h, Except.map]
  | cons i prog ih =>
    rw [List.length_cons, Nat.add_right_comm, List.flatMap_cons, List.map_append, List.append_assoc,
      loadTokens_instr, ih]
    cases loadTokens room ts <;> rfl

theorem load_program (room : Nat) (prog : List Instr) (rest : Text) :
    load (prog.length + room) (programText prog ++ rest) =
      (loadTokens room (tokens rest)).map (prog.map encode ++ ·) := by
  rw [load, tokens_programText, loadTokens_program]

/-- What the loop refuses after a program, the loader refuses after the program's token stream. -/
theorem load_program_error {depth : Nat} {prog : List Instr} {rest : Text} {e : LoadError}
    (hfit : prog.length ≤ depth) (h : loadTokens (depth - prog.length) (tokens rest) = .error e) :
    load depth (programText prog ++ rest) = .error e := by
  rw [← Nat.add_sub_cancel' hfit, load_program, h]
  rfl

/-- Where no slot is left, the tag of one more instruction is refused (R93). -/
theorem loadTokens_instr_of_full (i : Instr) (ts : List Text) :
    loadTokens 0 (i.tokens.map decimal ++ ts) = .error .programTooLong := by
  obtain ⟨xs, htokens⟩ := i.tokens_eq_cons
  rw [htokens]
  exact loadTokens_of_full (parseToken_ordinal i) (tagArity_ordinal i) _

/-- A program longer than the memory is refused at its first instruction that has no slot. -/
theorem load_of_tooLong {depth : Nat} {prog : List Instr} (h : depth < prog.length) :
    load depth (programText prog) = .error .programTooLong := by
  have hlen : (prog.take depth).length = depth := List.length_take_of_le h.le
  have hsplit : prog = prog.take depth ++ prog[depth] :: prog.drop (depth + 1) := by
    rw [List.getElem_cons_drop, List.take_append_drop]
  have hloop := loadTokens_program 0 (prog.take depth)
    ((prog[depth] :: prog.drop (depth + 1)).flatMap Instr.tokens |>.map decimal)
  rw [hlen, ← List.map_append, ← List.flatMap_append, ← hsplit, List.flatMap_cons, List.map_append,
    loadTokens_instr_of_full, Nat.add_zero] at hloop
  have htokens := tokens_programText prog []
  rw [List.append_nil, tokens_nil, List.append_nil] at htokens
  rw [load, htokens, hloop]
  rfl

/-! ### Tokens that are not well formed -/

theorem digitsValue_eq_foldl (n : Nat) (t : Text) :
    digitsValue n t = t.foldl (fun n c => 10 * n + (c.toNat - 0x30)) n := by
  induction t generalizing n with
  | nil => rfl
  | cons c t ih => exact ih _

/-- What `parseDigits` accepts is a run of digits and the number it spells. -/
theorem parseDigits_eq_some {t : Text} {x : Int} (h : parseDigits t = some x) :
    t ≠ [] ∧ (∀ c ∈ t, 0x30 ≤ c.toNat ∧ c.toNat ≤ 0x39) ∧ x = spelled t := by
  obtain ⟨⟨hne, hall⟩, hx⟩ := Option.ite_none_right_eq_some.mp h
  refine ⟨hne, fun c hc => isDigit_iff.mp (List.all_eq_true.mp hall c hc), ?_⟩
  rw [← Option.some.inj hx, spelled, digitsValue_eq_foldl]

/-- What `parseInteger` accepts is in the grammar of R91, with the value the grammar gives it. -/
theorem tokenDenotes_of_parseInteger {t : Text} {x : Int} (h : parseInteger t = some x) : TokenDenotes t x := by
  cases t with
  | nil => cases h
  | cons c rest =>
    rw [parseInteger] at h
    split at h
    next hc =>
      obtain ⟨y, hy, rfl⟩ := Option.map_eq_some_iff.mp h
      obtain ⟨hne, hall, rfl⟩ := parseDigits_eq_some hy
      exact ⟨rest, hne, hall, .inr ⟨by rw [hc], rfl⟩⟩
    next =>
      split at h
      next hc =>
        obtain ⟨hne, hall, rfl⟩ := parseDigits_eq_some h
        exact ⟨rest, hne, hall, .inl ⟨.inr (by rw [hc]), rfl⟩⟩
      next =>
        obtain ⟨hne, hall, rfl⟩ := parseDigits_eq_some h
        exact ⟨c :: rest, hne, hall, .inl ⟨.inl rfl, rfl⟩⟩

theorem BadToken.tokens_eq {t : Text} (h : BadToken t) : tokens t = [t] := by
  obtain ⟨hne, hspace, -⟩ := h
  exact tokens_of_token hne hspace

theorem BadToken.parseToken_eq {t : Text} (h : BadToken t) : parseToken t = .error .badToken := by
  obtain ⟨-, -, hrange⟩ := h
  rw [parseToken]
  cases hparse : parseInteger t with
  | none => rfl
  | some x => exact if_neg (hrange x (tokenDenotes_of_parseInteger hparse))

/-! ### What the loader accepts -/

/-- A tag with an arity is an op of the map, which the op field holds unchanged (R93, R95). -/
theorem opcodeArity_loadedSlot {tag operand : Int} {k : Nat} (h : tagArity tag = some k) :
    opcodeArity (loadedSlot tag operand).op.toNat = some k := by
  obtain ⟨h0, harity⟩ := Option.ite_none_right_eq_some.mp h
  have hle := le_32_of_opcodeArity harity
  have hop : (loadedSlot tag operand).op.toNat = tag.toNat := by
    rw [loadedSlot, BitVec.toNat_ofInt]
    omega
  rw [hop, harity]

/-- An op of the map whose arity is not 0 is among the nine of arity 1 (R94, R95). -/
theorem arityOneOrdinals_contains {n k : Nat} (h : opcodeArity n = some k) (hk : k ≠ 0) :
    arityOneOrdinals.contains n = true := by
  have hle := le_32_of_opcodeArity h
  unfold opcodeArity at h
  split at h
  case h_10 => exact absurd (Option.some.inj ((if_pos hle).symm.trans h)).symm hk
  all_goals rfl

/-- The slot of a tag of the map is well formed, where an opcode of arity 0 gets the operand 0 (R93). -/
theorem loadedSlot_wellFormed {tag operand : Int} {k : Nat} (h : tagArity tag = some k)
    (hk : k = 0 → operand = 0) : (loadedSlot tag operand).wellFormed = true := by
  refine Slot.wellFormed_iff.mpr ⟨loadedSlot_op_le h, rfl, ?_⟩
  by_cases h0 : k = 0
  · rw [hk h0]
    exact .inr rfl
  · exact .inl (arityOneOrdinals_contains (opcodeArity_loadedSlot h) h0)

/-- A program a slot longer still fits and is well formed, where the new slot is and a slot was left. -/
theorem fits_of_map_cons {r : Except LoadError (List Slot)} {new : Slot} {prog : List Slot} {room : Nat}
    (h : r.map (new :: ·) = .ok prog) (hnew : new.wellFormed = true)
    (ih : ∀ tail, r = .ok tail → tail.length ≤ room ∧ ∀ sl ∈ tail, sl.wellFormed = true) :
    prog.length ≤ room + 1 ∧ ∀ sl ∈ prog, sl.wellFormed = true := by
  cases r with
  | error e => cases h
  | ok tail =>
    obtain rfl := Except.ok.inj h
    obtain ⟨hlen, hall⟩ := ih tail rfl
    exact ⟨Nat.succ_le_succ hlen, List.forall_mem_cons.mpr ⟨hnew, hall⟩⟩

/-- The loop fills at most the slots it has left, each with a well-formed slot (R93). -/
theorem loadTokens_wellFormed {room : Nat} {ts : List Text} {prog : List Slot}
    (h : loadTokens room ts = .ok prog) : prog.length ≤ room ∧ ∀ sl ∈ prog, sl.wellFormed = true := by
  induction room, ts using loadTokens.induct generalizing prog with
  | case1 room =>
    obtain rfl := Except.ok.inj ((loadTokens_nil room).symm.trans h)
    exact ⟨Nat.zero_le _, List.forall_mem_nil _⟩
  | case5 t rest tag ht room harity ih =>
    rw [loadTokens_of_arityZero ht harity] at h
    exact fits_of_map_cons h (loadedSlot_wellFormed harity fun _ => rfl) fun _ => ih
  | case8 t tag ht k room hk harity o rest operand ho ih =>
    simp only [loadTokens, ht, harity, ho] at h
    exact fits_of_map_cons h (loadedSlot_wellFormed harity fun h0 => absurd h0 hk) fun _ => ih
  | case2 | case3 | case4 | case6 | case7 => simp_all [loadTokens] -- a refusal

/-! ### The obligations -/

/-- Settles O5: past the program there is no token left (`load_program`). -/
theorem loadingTokenStreamGivesProgram : Obligations.LoadingTokenStreamGivesProgram := by
  intro depth prog hfit
  have h := load_program (depth - prog.length) prog []
  rw [Nat.add_sub_cancel' hfit, List.append_nil] at h
  rw [h, tokens_nil, loadTokens_nil, Except.map, List.append_nil]

/-- Settles O6, by induction along the loop (`loadTokens_wellFormed`). -/
theorem loadedProgramsAreWellFormed : Obligations.LoadedProgramsAreWellFormed := by
  intro c text prog h
  obtain ⟨hlen, hall⟩ := loadTokens_wellFormed h
  rw [programWellFormed, decide_eq_true hlen, Bool.true_and]
  exact List.all_eq_true.mpr hall

/-- Settles O7: what the loop answers past the program (`load_program_error`), for each token it may find there. -/
theorem loaderRefusesBadStreams : Obligations.LoaderRefusesBadStreams := by
  refine fun depth prog => ⟨fun hfit tag htag => ?_, fun hfit t ht => ?_, fun hlt tag harity => ?_, load_of_tooLong⟩
  · refine load_program_error hfit ?_
    rw [tokens_decimal (toInt_bounds tag)]
    exact loadTokens_of_unknownTag (parseToken_decimal (toInt_bounds tag)) (tagArity_of_unknownTag htag) []
  · refine load_program_error hfit ?_
    rw [ht.tokens_eq]
    exact loadTokens_of_badTag ht.parseToken_eq []
  · obtain ⟨room, hroom⟩ := Nat.exists_eq_add_of_lt hlt
    have hleft : depth - prog.length = room + 1 := by omega
    have htag := isWord_of_tag (le_32_of_opcodeArity harity)
    have htagArity := (tagArity_natCast tag).trans harity
    refine ⟨load_program_error hlt.le ?_, fun t ht => ?_⟩
    · rw [hleft, tokens_decimal htag]
      exact loadTokens_of_missingOperand (parseToken_decimal htag) htagArity
    · rw [List.append_assoc]
      refine load_program_error hlt.le ?_
      rw [hleft, tokens_decimal_space htag, ht.tokens_eq]
      exact loadTokens_of_badOperand (parseToken_decimal htag) htagArity ht.parseToken_eq []

/-- Settles O52: the byte is the low eight bits of the word. -/
theorem charEventIsItsLowByte : Obligations.CharEventIsItsLowByte := fun v =>
  ⟨v.extractLsb' 0 8, rfl, by rw [BitVec.extractLsb'_toNat, Nat.shiftRight_zero]⟩

/-- Settles O53: the text reads back as the word (`parseToken_decimal`), and begins with a minus sign or with a
digit that is 0 for the number 0 only. -/
theorem intEventIsItsDecimalText : Obligations.IntEventIsItsDecimalText := by
  intro v
  have hword := toInt_bounds v
  have htext : renderEvent ⟨.int, v⟩ = decimal v.toInt := rfl
  refine ⟨parseToken_decimal hword, ?_⟩
  rw [htext]
  rcases lt_or_ge v.toInt 0 with hneg | hnonneg
  · obtain ⟨d, rest, hdec, hd, hne⟩ := decimal_of_neg_eq_cons hword hneg
    have hv : v ≠ 0 := mt toInt_eq_zero_iff.mpr hneg.ne
    rw [hdec]
    exact ⟨iff_of_true rfl hneg, iff_of_false (mt Option.some.inj (by decide)) hv, mt Option.some.inj (by decide),
      fun _ => mt Option.some.inj (mt (digitByte_eq_zero_iff hd).mp hne), fun h => absurd h hv⟩
  · obtain ⟨d, rest, hdec, hd, hzero⟩ := decimal_of_nonneg_eq_cons hword hnonneg
    obtain ⟨hminus, hplus⟩ := digitByte_ne_sign hd
    have hsingle : v = 0 → digitByte d :: rest = [0x30] := by
      rintro rfl
      exact hdec.symm
    have hdigit : digitByte d = 0x30 ↔ v = 0 :=
      ⟨fun h => toInt_eq_zero_iff.mp (hzero ((digitByte_eq_zero_iff hd).mp h)),
        fun h => List.head_eq_of_cons_eq (hsingle h)⟩
    rw [hdec]
    exact ⟨iff_of_false (mt Option.some.inj hminus) hnonneg.not_gt, Option.some_inj.trans hdigit,
      mt Option.some.inj hplus, fun h => absurd h hnonneg.not_gt, hsingle⟩

end Sys2Proof.Machine

/-! The statements about the invariant of the machine, and about reset and boot (10_state.md, 70_reset_and_hazards.md).
What an instruction can write to the memory, to sp and to the offered event is said once, over the shapes of a
completed instruction; a step that ends otherwise halts, and a halt keeps the rest. -/

namespace Sys2Proof.Machine

variable {s t : State} {i : Instr} {e : OutEvent} {k : OutKind}

/-! ### FrameOK -/

/-- A count of cells within the capacity is a word (R5, R33). -/
theorem toInt_wrap_of_le_capacity {c : Config} {x : Int} (hc : c.WellFormed) (h0 : 0 ≤ x)
    (hx : x ≤ c.maxStackSize) : (wrap x).toInt = x := by
  obtain ⟨-, hmax, -⟩ := hc
  exact toInt_wrap ⟨by simp only [intMin]; omega, hx.trans hmax⟩

/-- FrameOK is kept where bp stays and sp moves between bp and the capacity. -/
theorem frameOK_of_sp {x : Int} (hc : s.cfg.WellFormed) (hf : FrameOK s) (hcfg : t.cfg = s.cfg)
    (hbp : t.bp = s.bp) (hsp : t.sp = wrap x) (hlo : s.bp.toInt ≤ x) (hhi : x ≤ s.cfg.maxStackSize) : FrameOK t := by
  obtain ⟨-, -, hb0, hbmax, -⟩ := hf
  have hx := toInt_wrap_of_le_capacity hc (hb0.trans hlo) hhi
  rw [FrameOK, hcfg, hbp, hsp, hx]
  exact ⟨hb0.trans hlo, hhi, hb0, hbmax, hlo⟩

theorem unframeSp_bounds : s.sp.toInt - 1 ≤ unframeSp s ∧ unframeSp s ≤ s.sp.toInt := by
  unfold unframeSp
  split <;> omega

/-- Every instruction rule preserves FrameOK (R205). -/
theorem Shape.frameOK (h : Shape s i t) (hc : s.cfg.WellFormed) (hf : FrameOK s) : FrameOK t := by
  have hf' := hf
  obtain ⟨hsp0, hspmax, hb0, hbmax, hbsp⟩ := hf'
  cases h with
  | not | goto | jump | waits => exact hf
  | printed _ _ htop =>
    obtain ⟨hcount, -⟩ := top_eq_ok.mp htop
    exact frameOK_of_sp hc hf rfl rfl rfl (by omega) (by omega)
  | binary | push | pop | store | allocUp | allocDown | storestack | taken | notTaken | ret =>
    exact frameOK_of_sp hc hf rfl rfl rfl (by omega) (by omega)
  | unframe =>
    obtain ⟨hlo, hhi⟩ := unframeSp_bounds (s := s)
    exact frameOK_of_sp hc hf rfl rfl rfl (by omega) (by omega)
  | pushstack hr h0 =>
    have hx := toInt_wrap_of_le_capacity hc (by omega) hr
    simp only [FrameOK, State.advance_sp, State.advance_bp, State.advance_cfg, State.setBp_sp, State.setBp_bp,
      State.setBp_cfg, State.setSp_sp, State.setSp_cfg, State.setCell_cfg, hx]
    omega
  | popstack link hb hl =>
    have hx := toInt_wrap_of_le_capacity (x := s.bp.toInt - 1) hc (by omega) (by omega)
    simp only [FrameOK, State.advance_sp, State.advance_bp, State.advance_cfg, State.setBp_sp, State.setBp_bp,
      State.setBp_cfg, State.setSp_sp, State.setSp_cfg, hx]
    omega

/-! ### The stack memory -/

/-- What an instruction can do to the stack memory: nothing, one defined cell written, or some cells undefined by
a fresh draw. -/
theorem Shape.mem_cases (h : Shape s i t) :
    (t.mem = s.mem ∧ t.nextDraw = s.nextDraw) ∨
    (∃ a v, a < s.cfg.maxStackSize ∧ t.mem = s.mem.insert a ⟨v, .defined⟩ ∧ t.nextDraw = s.nextDraw) ∨
    ∃ lo hi, t.mem = s.mem.undefine lo hi s.nextDraw ∧ t.nextDraw = s.nextDraw + 1 := by
  cases h with
  | binary _ _ _ ha | not _ _ ha | store _ _ _ _ ha | unframe _ _ ha | storestack _ _ _ _ ha =>
    exact .inr (.inl ⟨_, _, (Int.toNat_lt ha.1).mpr ha.2, rfl, rfl⟩)
  | push _ _ hr h0 | pushstack hr h0 => exact .inr (.inl ⟨_, _, (Int.toNat_lt h0).mpr hr, rfl, rfl⟩)
  | allocUp => exact .inr (.inr ⟨_, _, rfl, rfl⟩)
  | pop | allocDown | goto | jump | taken | notTaken | printed | waits | popstack | ret => exact .inl ⟨rfl, rfl⟩

theorem Shape.resetDraw_eq (h : Shape s i t) : t.resetDraw = s.resetDraw := by
  cases h <;> rfl

theorem Memory.insert_drawsBelow {m : Memory} {n : Nat} (h : m.drawsBelow n) (a : Nat) (v : Word) :
    (m.insert a ⟨v, .defined⟩).drawsBelow n := by
  intro p hp d hd
  rcases Memory.mem_insert hp with rfl | hp
  · cases hd
  · exact h p hp d hd

/-- A cell made undefined has the new draw or an earlier one. -/
theorem StackCell.undefine_status {c : StackCell} {draw d : Nat} (h : (c.undefine draw).status = .undefinedSince d) :
    d = draw ∨ c.status = .undefinedSince d := by
  unfold StackCell.undefine at h
  split at h
  · exact .inl (Definedness.undefinedSince.inj h).symm
  · exact .inr h

theorem Memory.undefine_drawsBelow {m : Memory} {n : Nat} (h : m.drawsBelow n) (lo hi : Int) :
    (m.undefine lo hi n).drawsBelow (n + 1) := by
  intro p hp d hd
  obtain ⟨q, hq, -, hcell | hcell⟩ := Memory.mem_undefine hp
  · exact Nat.lt_succ_of_lt (h q hq d (hcell ▸ hd))
  · rcases StackCell.undefine_status (hcell ▸ hd) with rfl | hq'
    · exact Nat.lt_succ_self d
    · exact Nat.lt_succ_of_lt (h q hq d hq')

/-! ### The offered event -/

/-- Both prints are `printTop` (R180, R181). -/
theorem rule_of_printKind (hk : printKind i = some k) : rule i s = printTop k s := by
  rcases printKind_eq_some.mp hk with ⟨rfl, rfl⟩ | ⟨rfl, rfl⟩ <;> rfl

theorem Shape.offer_eq (h : Shape s i t) (hk : printKind i = none) : t.offer = s.offer := by
  cases h with
  | printed _ hi | waits _ hi => rcases hi with ⟨rfl, -⟩ | ⟨rfl, -⟩ <;> cases hk
  | _ => rfl

theorem OfferPending.printKind_eq (h : OfferPending s e) (hfe : frontEnd s = .inr i) :
    printKind i = some e.kind := by
  obtain ⟨j, hj, hk, -⟩ := offering_eq_some.mp h.offering_eq
  rwa [Sum.inr.inj (hfe.symm.trans hj)]

/-- Waiting changes nothing that the front end looks at (R241). -/
theorem frontEnd_wait (hfe : frontEnd s = .inr i) (e : OutEvent) : frontEnd (s.wait e) = .inr i :=
  frontEnd_eq_inr.mpr (frontEnd_eq_inr (s := s).mp hfe)

theorem oneOperand_of_top {v : Word} (h : top s = .ok v) : OneOperand s := by
  obtain ⟨hcount, hread⟩ := top_eq_ok.mp h
  obtain ⟨-, hreadable, -⟩ := memRead_eq_ok.mp hread
  exact ⟨hcount, hreadable⟩

/-- The event of the print that the next step dispatches is pending once the core holds it. -/
theorem offerPending_wait (h : s.offering = some e) : OfferPending (s.wait e) e := by
  obtain ⟨i, hfe, hk, htop⟩ := offering_eq_some.mp h
  obtain ⟨hrst, hrun, -⟩ := frontEnd_eq_inr.mp hfe
  refine ⟨⟨hrst, hrun⟩, oneOperand_of_top htop, top_value htop, ?_⟩
  rcases printKind_eq_some.mp hk with ⟨rfl, hkind⟩ | ⟨rfl, hkind⟩
  · exact .inl ⟨hkind, frontEnd_wait hfe e⟩
  · exact .inr ⟨hkind, frontEnd_wait hfe e⟩

/-- After a completed instruction only the event of a print that waits is offered. -/
theorem offers_of_completed (hfe : frontEnd s = .inr i) (h : rule i s = .ok t)
    (hs : ∀ e, s.offer = some e → OfferPending s e) (e : OutEvent) (he : t.offer = some e) : OfferPending t e := by
  cases hk : printKind i with
  | none =>
    have hpending := hs e ((rule_shape h).offer_eq hk ▸ he)
    rw [hpending.printKind_eq hfe] at hk
    cases hk
  | some k =>
    rw [rule_of_printKind hk] at h
    obtain ⟨v, htop, rfl⟩ := printTop_eq_ok.mp h
    cases hr : s.ready.now with
    | true =>
      rw [hr] at he
      cases he
    | false =>
      rw [hr] at he
      obtain rfl := Option.some.inj he
      exact offerPending_wait (offering_eq_some.mpr ⟨i, hfe, hk, htop⟩)

/-! ### The invariant -/

theorem FatalError.code_ne_loadError (e : FatalError) : e.code ≠ .loadError := by
  cases e <;> exact nofun

/-- A halt keeps the invariant, where a normal one is at pc = N. -/
theorem Inv.haltWith (hi : Inv s) {code : ErrCode} (hend : code = .none → s.pc.toInt = s.progLen)
    (hcode : code ≠ .loadError) : Inv (s.haltWith code) where
  config := hi.config
  program := hi.program
  frame := hi.frame
  canonical := hi.canonical
  cells := hi.cells
  runningErr := nofun
  normalEnd := fun _ => hend
  noLoadError := hcode
  draws := hi.draws
  offers := nofun

theorem Inv.raise (hi : Inv s) (e : FatalError) : Inv (s.raise e) :=
  hi.haltWith (fun h => absurd h e.code_ne_none) e.code_ne_loadError

/-- A completed instruction keeps the invariant. -/
theorem Inv.completed (hi : Inv s) (hfe : frontEnd s = .inr i) (h : rule i s = .ok t) : Inv t := by
  have hshape := rule_shape h
  obtain ⟨himem, hcfg⟩ := hshape.imem_cfg_eq
  obtain ⟨hrunEq, herrEq⟩ := hshape.run_err_eq
  obtain ⟨-, hrun, -⟩ := frontEnd_eq_inr.mp hfe
  obtain ⟨hreset, hdraws⟩ := hi.draws
  have hmem : t.mem.wf ∧ t.mem.within s.cfg.maxStackSize ∧ s.resetDraw < t.nextDraw ∧ t.mem.drawsBelow t.nextDraw := by
    rcases hshape.mem_cases with ⟨hm, hn⟩ | ⟨a, v, ha, hm, hn⟩ | ⟨lo, hi', hm, hn⟩ <;> rw [hm, hn]
    · exact ⟨hi.canonical, hi.cells, hreset, hdraws⟩
    · exact ⟨Memory.insert_wf hi.canonical _ _, Memory.insert_within hi.cells ha _, hreset,
        Memory.insert_drawsBelow hdraws _ _⟩
    · exact ⟨Memory.undefine_wf hi.canonical _ _ _, Memory.undefine_within hi.cells _ _ _,
        Nat.lt_succ_of_lt hreset, Memory.undefine_drawsBelow hdraws _ _⟩
  obtain ⟨hwf, hwithin, hreset', hdraws'⟩ := hmem
  exact {
    config := hcfg ▸ hi.config
    program := by rw [himem, hcfg]; exact hi.program
    frame := hshape.frameOK hi.config hi.frame
    canonical := hwf
    cells := hcfg ▸ hwithin
    runningErr := fun _ => herrEq.trans (hi.runningErr hrun)
    normalEnd := fun hhalt => by rw [hrunEq, hrun] at hhalt; cases hhalt
    noLoadError := herrEq ▸ hi.noLoadError
    draws := ⟨hshape.resetDraw_eq ▸ hreset', hdraws'⟩
    offers := offers_of_completed hfe h hi.offers }

/-- The state after a reset has the invariant, where the parameters are admissible and the program fits (R46). -/
theorem inv_releaseReset (hc : s.cfg.WellFormed) (hp : s.imem.length ≤ s.cfg.imemDepth) : Inv s.releaseReset where
  config := hc
  program := hp
  frame := frameOK_hostReset s
  canonical := List.Pairwise.nil
  cells := nofun
  runningErr := fun _ => rfl
  normalEnd := nofun
  noLoadError := nofun
  draws := ⟨Nat.lt_succ_self _, nofun⟩
  offers := nofun

/-! ### The obligations -/

/-- Settles O54. -/
theorem invariantHoldsAtReset : Obligations.InvariantHoldsAtReset where
  config := by decide
  program := by decide
  frame := by decide
  canonical := List.Pairwise.nil
  cells := nofun
  runningErr := fun _ => rfl
  normalEnd := nofun
  noLoadError := nofun
  draws := ⟨Nat.lt_succ_self _, nofun⟩
  offers := nofun

/-- Settles O55, over every case of a step: it completes an instruction (`Inv.completed`) or halts. -/
theorem stepKeepsInvariant : Obligations.StepKeepsInvariant := by
  intro s t hi h
  obtain ⟨-, -, hc⟩ := step_eq_next h
  cases hc with
  | completed i hfe hr => exact hi.completed hfe hr
  | finish _ hpc ht => exact ht ▸ hi.haltWith (fun _ => hpc) nofun
  | frameCheck _ ht | pcBounds _ _ ht | unknownOp _ _ ht | raised _ _ _ _ ht => exact ht ▸ hi.raise _

theorem statusWord_hostReset (s : State) : statusWord s.hostReset = 0 := by
  change statusWord State.reset = 0
  decide

/-- Settles O59: a released reset takes every register from `State.reset`. -/
theorem resetFromAnyState : Obligations.ResetFromAnyState := fun s =>
  ⟨⟨rfl, rfl⟩, rfl, rfl, rfl, rfl, rfl, rfl, rfl, fun _ => rfl, statusWord_hostReset s, frameOK_hostReset s, rfl, rfl⟩

theorem loadSource_length_le {depth : Nat} {source : Option Text} {prog : List Slot}
    (h : loadSource depth source = .ok prog) : prog.length ≤ depth := by
  cases source with
  | none => cases h
  | some text => exact (loadTokens_wellFormed h).1

/-- A core held in reset does not step (R230). -/
theorem step_of_heldInReset (h : s.rst = true) : step s = .fault .heldInReset := by
  rw [step, frontEnd, if_pos h]

/-- Settles O56: a failed load leaves `rst` asserted, a successful one ends in the release of reset
(`inv_releaseReset`). -/
theorem bootEstablishesInvariant : Obligations.BootEstablishesInvariant := by
  intro s source hc
  cases hload : loadSource s.cfg.imemDepth source with
  | error e =>
    have hboot : s.boot source = (s.assertReset, some e) := by rw [State.boot, hload]
    rw [hboot]
    refine ⟨rfl, rfl, fun t h => ?_⟩
    rw [step_of_heldInReset rfl] at h
    cases h
  | ok prog =>
    have hboot : s.boot source = (({ s.assertReset with imem := prog } : State).releaseReset, none) := by
      rw [State.boot, hload]
    rw [hboot]
    exact ⟨rfl, inv_releaseReset hc (loadSource_length_le hload), ⟨rfl, rfl⟩, rfl, rfl, rfl, rfl, rfl, rfl, rfl, rfl,
      fun _ => rfl⟩

end Sys2Proof.Machine

/-! The statement that stale and undefined cells are never observed (10_state.md R47, 70_reset_and_hazards.md R231).
Two states that agree below sp read alike there; a rule reads below sp alone, so it raises the same error in both,
or writes the same to both, and what it makes visible by raising sp it has written or left undefined. -/

namespace Sys2Proof.Machine

/-- The state with another stack memory. -/
abbrev State.withMem (s : State) (m : Memory) : State := { s with mem := m }

/-- The cells below index `n` agree as `LiveEqual` asks of those below sp. -/
def AgreeBelow (n : Int) (s s' : State) : Prop :=
  ∀ a : Nat, (a : Int) < n → s'.isDefined a = s.isDefined a ∧ (s.isDefined a = true → s'.cellWord a = s.cellWord a)

/-- An update that writes registers only, the same whatever the stack memory holds. -/
def KeepsMem (f : State → State) : Prop :=
  ∀ s : State, (∀ m, f (s.withMem m) = (f s).withMem m) ∧ (f s).mem = s.mem ∧ (f s).resetDraw = s.resetDraw

/-- Two rules end alike: with live-equal states, or with the same error. -/
inductive SameEnd : Except FatalError State → Except FatalError State → Prop where
  | ok {t t' : State} (h : LiveEqual t t') : SameEnd (.ok t) (.ok t')
  | error (e : FatalError) : SameEnd (.error e) (.error e)

variable {s t : State} {i : Instr} {m : Memory} {n x : Int}

theorem liveEqual_withMem : LiveEqual s (s.withMem m) ↔ AgreeBelow s.sp.toInt s (s.withMem m) :=
  ⟨fun h => h.2, fun h => ⟨⟨m, rfl⟩, h⟩⟩

/-! ### Cells -/

theorem isDefined_congr {s s' : State} (a : Nat) (h : s'.cellAt a = s.cellAt a) : s'.isDefined a = s.isDefined a := by
  rw [State.isDefined, State.isDefined, h]

theorem cellWord_congr {s s' : State} (a : Nat) (h : s'.cellAt a = s.cellAt a) (hd : s'.resetDraw = s.resetDraw) :
    s'.cellWord a = s.cellWord a := by
  rw [State.cellWord, State.cellWord, h, hd]

/-- A register update keeps the cells that agree, and shows those below the new sp. -/
theorem AgreeBelow.update {f : State → State} (h : AgreeBelow n s (s.withMem m)) (hf : KeepsMem f)
    (hsp : (f s).sp.toInt ≤ n) : LiveEqual (f s) (f (s.withMem m)) := by
  obtain ⟨hcomm, hmem, hdraw⟩ := hf s
  rw [hcomm m]
  refine liveEqual_withMem.mpr fun a ha => ?_
  have hcell : (f s).cellAt a = s.cellAt a := congrArg (Memory.lookup · a) hmem
  have hcell' : ((f s).withMem m).cellAt a = (s.withMem m).cellAt a := rfl
  rw [isDefined_congr a hcell, isDefined_congr a hcell', cellWord_congr a hcell hdraw, cellWord_congr a hcell' hdraw]
  exact h a (ha.trans_le hsp)

/-- A cell written alike in both agrees from then on. -/
theorem AgreeBelow.setCell (h : AgreeBelow n s (s.withMem m)) (a : Nat) (v : Word)
    (hx : ∀ b : Nat, (b : Int) < x → (b : Int) < n ∨ b = a) :
    AgreeBelow x (s.setCell a v) ((s.withMem m).setCell a v) := by
  intro b hb
  by_cases hab : b = a
  · subst hab
    have hcell : ((s.withMem m).setCell b v).cellAt b = (s.setCell b v).cellAt b :=
      (State.cellAt_setCell_self b v).trans (State.cellAt_setCell_self b v).symm
    exact ⟨isDefined_congr b hcell, fun _ => cellWord_congr b hcell rfl⟩
  · have hcell := State.cellAt_setCell_ne (s := s) v hab
    have hcell' := State.cellAt_setCell_ne (s := s.withMem m) v hab
    rw [isDefined_congr b hcell, isDefined_congr b hcell', cellWord_congr b hcell rfl, cellWord_congr b hcell' rfl]
    exact h b ((hx b hb).resolve_right hab)

/-- The cells that ALLOC reserves are undefined (R134). -/
theorem isDefined_undefineCells {lo hi : Int} {a : Nat} (h : lo ≤ (a : Int) ∧ (a : Int) < hi) :
    (s.undefineCells lo hi).isDefined a = false := by
  have hcell : (s.undefineCells lo hi).cellAt a = (s.cellAt a).map (StackCell.undefine s.nextDraw) := by
    simp only [State.cellAt, State.undefineCells_mem, Memory.lookup_undefine, if_pos h]
  rw [State.isDefined, hcell]
  rcases s.cellAt a with _ | ⟨w, _ | d⟩ <;> rfl

theorem cellAt_undefineCells_ne {lo hi : Int} {a : Nat} (h : ¬ (lo ≤ (a : Int) ∧ (a : Int) < hi)) :
    (s.undefineCells lo hi).cellAt a = s.cellAt a := by
  simp only [State.cellAt, State.undefineCells_mem, Memory.lookup_undefine, if_neg h, Option.map_id']

/-- Cells reserved from `n` on agree: they are undefined in both. -/
theorem AgreeBelow.undefineCells (h : AgreeBelow n s (s.withMem m)) :
    AgreeBelow x (s.undefineCells n x) ((s.withMem m).undefineCells n x) := by
  intro a ha
  by_cases hin : n ≤ (a : Int) ∧ (a : Int) < x
  · rw [isDefined_undefineCells hin, isDefined_undefineCells hin]
    exact ⟨rfl, nofun⟩
  · have hcell := cellAt_undefineCells_ne (s := s) hin
    have hcell' := cellAt_undefineCells_ne (s := s.withMem m) hin
    rw [isDefined_congr a hcell, isDefined_congr a hcell', cellWord_congr a hcell rfl, cellWord_congr a hcell' rfl]
    exact h a (by omega)

/-! ### The same checks and reads -/

/-- A cell below sp reads alike: with UNINIT_CHECK the word of an undefined cell is not read (R66). -/
theorem memRead_withMem (h : AgreeBelow n s (s.withMem m)) (hc : s.cfg.uninitCheck = true) {a : Int} (ha : a < n) :
    memRead (s.withMem m) a = memRead s a := by
  by_cases hin : 0 ≤ a ∧ a < s.cfg.maxStackSize
  · obtain ⟨hdef, hword⟩ := h a.toNat (by omega)
    cases hd : s.isDefined a.toNat with
    | false =>
      rw [hd] at hdef
      rw [memRead_undefined (s := s.withMem m) hin.1 hin.2 hc hdef, memRead_undefined hin.1 hin.2 hc hd]
    | true =>
      rw [hd] at hdef
      have hword := hword hd
      rw [memRead_readable (s := s.withMem m) hin.1 hin.2 fun _ => hdef, memRead_readable hin.1 hin.2 fun _ => hd]
      exact congrArg Except.ok hword
  · rw [memRead_eq_error.mpr (.inl ⟨hin, rfl⟩), memRead_eq_error (s := s.withMem m).mpr (.inl ⟨hin, rfl⟩)]

/-- Rules whose first check answers alike end alike, if what follows it does. -/
theorem SameEnd.bind {α : Type} {r r' : Except FatalError α} {f f' : α → Except FatalError State} (hr : r' = r)
    (h : ∀ a, r = .ok a → SameEnd (f a) (f' a)) : SameEnd (r.bind f) (r'.bind f') := by
  subst hr
  cases hr : r' with
  | ok a => exact h a hr
  | error e => exact .error e

theorem bind_bind_eq {α β γ : Type} (r : Except FatalError α) (f : α → Except FatalError β)
    (g : β → Except FatalError γ) : (r.bind f).bind g = r.bind fun a => (f a).bind g := by
  cases r <;> rfl

/-- A write with a register update after it: inside the memory both write, outside both raise (R67). -/
theorem SameEnd.memWrite {a : Int} {v : Word} {f : State → State} (hf : KeepsMem f)
    (h : AgreeBelow x (s.setCell a.toNat v) ((s.withMem m).setCell a.toNat v))
    (hsp : (f (s.setCell a.toNat v)).sp.toInt ≤ x) :
    SameEnd ((memWrite s a v).bind fun t => .ok (f t)) ((memWrite (s.withMem m) a v).bind fun t => .ok (f t)) := by
  by_cases hin : 0 ≤ a ∧ a < s.cfg.maxStackSize
  · rw [memWrite_eq_ok.mpr ⟨hin, rfl⟩, memWrite_eq_ok (s := s.withMem m).mpr ⟨hin, rfl⟩]
    exact .ok (h.update hf hsp)
  · rw [memWrite_eq_error.mpr ⟨hin, rfl⟩, memWrite_eq_error (s := s.withMem m).mpr ⟨hin, rfl⟩]
    exact .error _

/-! ### The new sp -/

/-- An sp that wraps becomes smaller. -/
theorem toInt_wrap_le {x : Int} (h : 0 ≤ x) : (wrap x).toInt ≤ x := by
  rw [wrap, BitVec.toInt_ofInt]
  rw [Int.bmod_eq_emod]
  split <;> omega

theorem toInt_wrap_le_of_le {x y : Int} (h0 : 0 ≤ x) (h : x ≤ y) : (wrap x).toInt ≤ y :=
  (toInt_wrap_le h0).trans h

/-- sp may fall by one where `top` answers. -/
theorem sp_pred_le_of_top {v : Word} (hf : FrameOK s) (hv : top s = .ok v) :
    (wrap (s.sp.toInt - 1)).toInt ≤ s.sp.toInt := by
  obtain ⟨hcount, -⟩ := top_eq_ok.mp hv
  obtain ⟨-, -, hb, -⟩ := hf
  exact toInt_wrap_le_of_le (by omega) (by omega)

theorem allocCheck_of_neg (hx : x < 0) : allocCheck s x = require s (-x) := by
  rw [allocCheck, if_neg hx.not_gt, if_pos hx]

/-- ALLOC that lowers sp stays in the frame (R134, D13). -/
theorem sp_add_nonneg_of_allocCheck {u : Unit} (hb : 0 ≤ s.bp.toInt) (hsp : 0 ≤ s.sp.toInt)
    (h : allocCheck s x = .ok u) : 0 ≤ s.sp.toInt + x := by
  rcases lt_or_ge x 0 with hx | hx
  · have := require_eq_ok.mp ((allocCheck_of_neg hx).symm.trans h)
    omega
  · omega

/-! ### The rules -/

section Writes

variable {f : State → State} {v : Word} (h : LiveEqual s (s.withMem m))
include h

/-- A rule that has passed its checks and updates registers alone. -/
theorem SameEnd.update (hsp : (f s).sp.toInt ≤ s.sp.toInt)
    (hf : KeepsMem f := by exact fun _ => ⟨fun _ => rfl, rfl, rfl⟩) :
    SameEnd (.ok (f s)) (.ok (f (s.withMem m))) :=
  .ok ((liveEqual_withMem.mp h).update hf hsp)

/-- A rule that has passed its checks and writes a cell, with sp no higher after it. -/
theorem SameEnd.write {a : Int} (hsp : (f (s.setCell a.toNat v)).sp.toInt ≤ s.sp.toInt)
    (hf : KeepsMem f := by exact fun _ => ⟨fun _ => rfl, rfl, rfl⟩) :
    SameEnd ((Machine.memWrite s a v).bind fun t => .ok (f t))
      ((Machine.memWrite (s.withMem m) a v).bind fun t => .ok (f t)) :=
  .memWrite hf ((liveEqual_withMem.mp h).setCell _ _ fun _ hb => .inl hb) hsp

/-- A push writes the one cell that it makes visible (R68). -/
theorem SameEnd.push (h0 : 0 ≤ s.sp.toInt) (hsp : ∀ t, (f t).sp = t.sp)
    (hf : KeepsMem f := by exact fun _ => ⟨fun _ => rfl, rfl, rfl⟩) :
    SameEnd ((Machine.push s v).bind fun t => .ok (f t)) ((Machine.push (s.withMem m) v).bind fun t => .ok (f t)) := by
  have hagree := (liveEqual_withMem.mp h).setCell (x := s.sp.toInt + 1) s.sp.toInt.toNat v fun b hb => by omega
  have hkeeps : KeepsMem fun t => f (t.setSp (s.sp.toInt + 1)) := fun t => hf (t.setSp (s.sp.toInt + 1))
  rw [Machine.push, Machine.push, bind_bind_eq, bind_bind_eq]
  refine .memWrite hkeeps hagree ?_
  rw [hsp, State.setSp_sp]
  exact toInt_wrap_le (by omega)

theorem SameEnd.roomPush (h0 : 0 ≤ s.sp.toInt) (hsp : ∀ t, (f t).sp = t.sp)
    (hf : KeepsMem f := by exact fun _ => ⟨fun _ => rfl, rfl, rfl⟩) :
    SameEnd ((Machine.roomPush s v).bind fun t => .ok (f t))
      ((Machine.roomPush (s.withMem m) v).bind fun t => .ok (f t)) := by
  rw [Machine.roomPush, Machine.roomPush, bind_bind_eq, bind_bind_eq]
  exact .bind rfl fun _ _ => .push h h0 hsp hf

theorem sameEnd_alloc (hf : FrameOK s) (n : Word) :
    SameEnd (rule (.alloc n) s) (rule (.alloc n) (s.withMem m)) := by
  obtain ⟨hsp0, -, hb, -⟩ := hf
  refine .bind rfl fun _ hcheck => ?_
  unfold allocCells
  by_cases hn : n.toInt > 0
  · rw [if_pos hn, if_pos hn]
    have hagree : AgreeBelow (s.sp.toInt + n.toInt) (s.undefineCells s.sp.toInt (s.sp.toInt + n.toInt))
      ((s.undefineCells s.sp.toInt (s.sp.toInt + n.toInt)).withMem _) := (liveEqual_withMem.mp h).undefineCells
    exact .ok (hagree.update (f := fun t => (t.setSp (s.sp.toInt + n.toInt)).advance)
      (fun _ => ⟨fun _ => rfl, rfl, rfl⟩) (toInt_wrap_le (by omega)))
  · rw [if_neg hn, if_neg hn]
    have hlow := sp_add_nonneg_of_allocCheck hb hsp0 hcheck
    exact .update h (f := fun t => (t.setSp (s.sp.toInt + n.toInt)).advance) (toInt_wrap_le_of_le hlow (by omega))

end Writes

section Rules

variable (h : LiveEqual s (s.withMem m)) (hc : s.cfg.uninitCheck = true) (hf : FrameOK s)
include h hc

theorem memRead_belowSp {a : Int} (ha : a < s.sp.toInt) : memRead (s.withMem m) a = memRead s a :=
  memRead_withMem (liveEqual_withMem.mp h) hc ha

theorem memRead_topAddr : memRead (s.withMem m) s.topAddr = memRead s s.topAddr :=
  memRead_belowSp h hc (Int.sub_lt_self _ (by decide))

theorem memRead_belowTopAddr : memRead (s.withMem m) s.belowTopAddr = memRead s s.belowTopAddr :=
  memRead_belowSp h hc (Int.sub_lt_self _ (by decide))

theorem top_withMem : top (s.withMem m) = top s :=
  congrArg (fun r => (require s 1).bind fun _ => r) (memRead_topAddr h hc)

include hf

theorem sameEnd_binaryAlu (g : Word → Word → Except FatalError Word) :
    SameEnd (binaryAlu s g) (binaryAlu (s.withMem m) g) := by
  obtain ⟨-, -, hb, -⟩ := hf
  refine .bind rfl fun _ hcount => .bind (memRead_belowTopAddr h hc) fun a _ =>
    .bind (memRead_topAddr h hc) fun b _ => .bind rfl fun r _ => ?_
  have := require_eq_ok.mp hcount
  exact .write h (f := fun t => (t.setSp (s.sp.toInt - 1)).advance) (toInt_wrap_le_of_le (by omega) (by omega))

theorem sameEnd_jumpWhen (p : Word → Bool) (delta : Word) :
    SameEnd (jumpWhen p delta s) (jumpWhen p delta (s.withMem m)) := by
  refine .bind (top_withMem h hc) fun c htop => ?_
  have hsp := sp_pred_le_of_top hf htop
  cases p c with
  | true => exact .update h (f := fun t => (t.setSp (s.sp.toInt - 1)).setPc (s.pcPlus delta)) hsp
  | false => exact .update h (f := fun t => (t.setSp (s.sp.toInt - 1)).advance) hsp

theorem sameEnd_printTop (k : OutKind) : SameEnd (printTop k s) (printTop k (s.withMem m)) := by
  refine .bind (top_withMem h hc) fun v htop => ?_
  have hsp := sp_pred_le_of_top hf htop
  unfold emit
  cases hr : s.ready.now with
  | true => exact .update h (f := fun t => ((t.accept ⟨k, v⟩).setSp (s.sp.toInt - 1)).advance) hsp
  | false => exact .update h (f := fun t => t.wait ⟨k, v⟩) le_rfl

theorem sameEnd_load (off : Word) : SameEnd (rule (.load off) s) (rule (.load off) (s.withMem m)) := by
  obtain ⟨hsp0, -⟩ := hf
  refine .bind rfl fun _ _ => .bind rfl fun _ hwindow => ?_
  have hlt := (checkAddr_eq_ok.mp hwindow).2
  exact .bind (memRead_belowSp h hc hlt) fun v _ => .push h hsp0 (f := State.advance) fun _ => rfl

theorem sameEnd_store (off : Word) : SameEnd (rule (.store off) s) (rule (.store off) (s.withMem m)) := by
  obtain ⟨-, -, hb, -⟩ := hf
  refine .bind rfl fun _ hcount => .bind rfl fun _ _ => .bind (memRead_topAddr h hc) fun v _ => ?_
  have := require_eq_ok.mp hcount
  exact .write h (f := fun t => (t.setSp (s.sp.toInt - 1)).advance) (toInt_wrap_le_of_le (by omega) (by omega))

theorem sameEnd_storestack : SameEnd (rule .storestack s) (rule .storestack (s.withMem m)) := by
  obtain ⟨-, -, hb, -⟩ := hf
  refine .bind rfl fun _ hcount => .bind (memRead_topAddr h hc) fun addr _ => .bind rfl fun _ _ =>
    .bind (memRead_belowTopAddr h hc) fun v _ => ?_
  have := require_eq_ok.mp hcount
  exact .write h (f := fun t => (t.setSp (s.sp.toInt - 2)).advance) (toInt_wrap_le_of_le (by omega) (by omega))

theorem sameEnd_unframe : SameEnd (rule .unframe s) (rule .unframe (s.withMem m)) := by
  refine .bind (top_withMem h hc) fun r htop => ?_
  have := (top_eq_ok.mp htop).1
  obtain ⟨hlo, hhi⟩ := unframeSp_bounds (s := s)
  obtain ⟨-, -, hb, -⟩ := hf
  exact .write h (f := fun t => ((t.setRv 0).setSp (unframeSp s)).setPc r) (toInt_wrap_le_of_le (by omega) hhi)

theorem sameEnd_popstack : SameEnd (rule .popstack s) (rule .popstack (s.withMem m)) := by
  obtain ⟨-, -, -, -, hbsp⟩ := hf
  by_cases hb : s.bp.toInt < 1
  · rw [rule_popstack_of_outermost hb, rule_popstack_of_outermost (s := s.withMem m) hb]
    exact .error _
  · rw [rule_popstack_of_enclosed (by omega), rule_popstack_of_enclosed (s := s.withMem m) (not_lt.mp hb)]
    have hlink : s.linkAddr < s.sp.toInt := by unfold State.linkAddr; omega
    exact .bind (memRead_belowSp h hc hlink) fun link _ => .bind rfl fun _ _ =>
      .update h (f := fun t => ((t.setSp s.linkAddr).setBp link).advance)
        (toInt_wrap_le_of_le (by unfold State.linkAddr; omega) hlink.le)

/-- Every rule ends alike in two states that agree below sp. -/
theorem sameEnd_rule (i : Instr) : SameEnd (rule i s) (rule i (s.withMem m)) := by
  have ⟨hsp0, _, hb0, _⟩ := hf
  cases i with
  | add | sub | mul | div | mod => exact sameEnd_binaryAlu h hc hf _
  | less | leq | eq | neq | geq | greater => exact sameEnd_binaryAlu h hc hf _
  | and | or => exact sameEnd_binaryAlu h hc hf _
  | not => exact .bind (top_withMem h hc) fun a _ => .write h (f := State.advance) le_rfl
  | push | frame | storesp | storespoffset => exact .roomPush h hsp0 (f := State.advance) fun _ => rfl
  | pop =>
    refine .bind rfl fun _ hcount => ?_
    have := require_eq_ok.mp hcount
    exact .update h (f := fun t => (t.setSp (s.sp.toInt - 1)).advance) (toInt_wrap_le_of_le (by omega) (by omega))
  | load off => exact sameEnd_load h hc hf off
  | store off => exact sameEnd_store h hc hf off
  | alloc n => exact sameEnd_alloc h hf n
  | unframe => exact sameEnd_unframe h hc hf
  | storestack => exact sameEnd_storestack h hc hf
  | goto target => exact .update h (f := fun t => t.setPc target) le_rfl
  | jump delta => exact .update h (f := fun t => t.setPc (s.pcPlus delta)) le_rfl
  | jmpt | jmpf => exact sameEnd_jumpWhen h hc hf _ _
  | printc | printint => exact sameEnd_printTop h hc hf _
  | pushstack => exact .roomPush h hsp0 (f := fun t => (t.setBp t.sp).advance) fun _ => rfl
  | popstack => exact sameEnd_popstack h hc hf
  | ret =>
    exact .bind (top_withMem h hc) fun v htop =>
      .update h (f := fun t => ((t.setSp (s.sp.toInt - 1)).setRv v).advance) (sp_pred_le_of_top hf htop)

end Rules

/-! ### The step -/

/-- A step of a running core dispatches an instruction or halts, and which of the two does not turn on the stack
memory (R203). -/
theorem frontEnd_of_running (hr : Running s) : (∃ i, frontEnd s = .inr i) ∨
    ∃ code, ∀ m, frontEnd (s.withMem m) = .inl (.next ((s.withMem m).haltWith code)) := by
  by_cases hf : FrameOK s
  · rcases lt_trichotomy s.pc.toInt s.progLen with hlt | heq | hgt
    · rcases lt_or_ge s.pc.toInt 0 with hneg | h0
      · exact .inr ⟨_, fun m => frontEnd_of_pc_outside (s := s.withMem m) hr hf (.inl hneg)⟩
      · obtain ⟨sl, hsl⟩ := fetch_isSome h0 hlt
        cases hd : decode sl with
        | ok i =>
          refine .inl ⟨i, ?_⟩
          rw [frontEnd_of_pc_inside hr hf h0 hlt, dispatch, hsl]
          simp only [hd]
        | error e =>
          obtain ⟨op⟩ := e
          refine .inr ⟨(FatalError.unknownOpcode op).code, fun m => ?_⟩
          have hsl' : fetch (s.withMem m) = some sl := hsl
          rw [frontEnd_of_pc_inside (s := s.withMem m) hr hf h0 hlt, dispatch, hsl']
          simp only [hd]
          rfl
    · exact .inr ⟨_, fun m => frontEnd_of_pc_eq (s := s.withMem m) hr hf heq⟩
    · exact .inr ⟨_, fun m => frontEnd_of_pc_outside (s := s.withMem m) hr hf (.inr hgt)⟩
  · exact .inr ⟨_, fun m => frontEnd_of_not_frameOK (s := s.withMem m) hr hf⟩

theorem LiveEqual.haltWith (h : LiveEqual s (s.withMem m)) (code : ErrCode) :
    LiveEqual (s.haltWith code) ((s.withMem m).haltWith code) :=
  (liveEqual_withMem.mp h).update (f := fun t => t.haltWith code) (fun _ => ⟨fun _ => rfl, rfl, rfl⟩) le_rfl

/-- Rules that end alike commit to next states that agree (R12). -/
theorem SameEnd.commit {r r' : Except FatalError State} (hr : SameEnd r r') (h : LiveEqual s (s.withMem m))
    (hnext : Machine.commit s r = .next t) : ∃ t', Machine.commit (s.withMem m) r' = .next t' ∧ LiveEqual t t' := by
  cases hr with
  | ok hlive =>
    obtain rfl := Host.Outcome.next.inj hnext
    exact ⟨_, rfl, hlive⟩
  | error e =>
    obtain rfl := Host.Outcome.next.inj hnext
    exact ⟨_, rfl, h.haltWith e.code⟩

/-! ### The obligation -/

/-- Settles O57: a step halts alike (`frontEnd_of_running`) or executes the same instruction, which ends alike
(`sameEnd_rule`). -/
theorem staleCellsAreNeverObserved : Obligations.StaleCellsAreNeverObserved := by
  rintro s s' t hc h hstep
  obtain ⟨⟨m, rfl⟩, hagree⟩ := h
  have hlive := liveEqual_withMem.mpr hagree
  obtain ⟨hrst, hrun, -⟩ := step_eq_next hstep
  rcases frontEnd_of_running ⟨hrst, hrun⟩ with ⟨i, hfe⟩ | ⟨code, hfe⟩
  · have hfe' : frontEnd (s.withMem m) = .inr i := frontEnd_eq_inr.mpr (frontEnd_eq_inr (s := s).mp hfe)
    have hend := sameEnd_rule hlive hc (frameOK_of_dispatch hfe) i
    simp only [step, hfe, hfe', exec_eq_commit] at hstep ⊢
    exact hend.commit hlive hstep
  · rw [step, hfe s.mem] at hstep
    rw [step, hfe m]
    obtain rfl := Host.Outcome.next.inj hstep
    exact ⟨_, rfl, hlive.haltWith code⟩

end Sys2Proof.Machine

/-! The statements about a cell of the stack memory (20_memory.md R66, R67), the law of division (00_scope.md R8), and
ALLOC (41_stack.md R134). -/

namespace Sys2Proof.Machine

variable {s t : State} {a x : Int} {v n : Word}

/-! ### One cell -/

theorem memRead_outside (h : ¬ (0 ≤ a ∧ a < s.cfg.maxStackSize)) : memRead s a = .error (.addressOutOfBounds a) :=
  if_neg h

/-- A cell that no write has touched reads as before. -/
theorem memRead_congr (hcfg : t.cfg = s.cfg) (hdraw : t.resetDraw = s.resetDraw)
    (hcell : t.cellAt a.toNat = s.cellAt a.toNat) : memRead t a = memRead s a := by
  rw [memRead, memRead, hcfg, isDefined_congr _ hcell, cellWord_congr _ hcell hdraw]

theorem isDefined_setCell_self (b : Nat) : (s.setCell b v).isDefined b = true := by
  rw [State.isDefined, State.cellAt_setCell_self]

theorem cellWord_of_defined {b : Nat} (h : s.cellAt b = some ⟨v, .defined⟩) : s.cellWord b = v := by
  rw [State.cellWord, h]

/-- A written cell reads as the word written (R77). -/
theorem memRead_setCell_self (h0 : 0 ≤ a) (h1 : a < s.cfg.maxStackSize) :
    memRead (s.setCell a.toNat v) a = .ok v :=
  memRead_eq_ok.mpr ⟨⟨h0, h1⟩, fun _ => isDefined_setCell_self _,
    (cellWord_of_defined (State.cellAt_setCell_self _ _)).symm⟩

/-- A write to one cell leaves every read of another as it was (R77). -/
theorem memRead_setCell_ne {b : Int} (h0 : 0 ≤ a) (hb : b ≠ a) :
    memRead (s.setCell a.toNat v) b = memRead s b := by
  rcases lt_or_ge b 0 with hneg | hb0
  · have hout : ¬ (0 ≤ b ∧ b < s.cfg.maxStackSize) := fun h => absurd h.1 hneg.not_ge
    rw [memRead_outside hout, memRead_outside (s := s.setCell a.toNat v) hout]
  · exact memRead_congr rfl rfl (State.cellAt_setCell_ne v (by omega))

/-- Settles O22: a write inside the memory is `setCell`, and each read of it has its lemma. -/
theorem readAfterWrite : Obligations.ReadAfterWrite := by
  intro s t a v h
  obtain ⟨⟨h0, h1⟩, rfl⟩ := memWrite_eq_ok.mp h
  exact ⟨State.cellAt_setCell_self _ _, isDefined_setCell_self _, memRead_setCell_self h0 h1,
    fun b hb => memRead_setCell_ne h0 hb, _, rfl, fun b hb => Memory.lookup_insert_ne _ _ hb⟩

/-- Settles O23. -/
theorem readOfCell : Obligations.ReadOfCell := fun _ _ =>
  ⟨memRead_outside, memRead_undefined, memRead_readable, fun _ => cellWord_of_defined⟩

/-! ### Division -/

theorem trem_eq_tmod (a b : Int) : trem a b = a.tmod b := (Int.tmod_def a b).symm

/-- The remainder is 0 or has the sign of the dividend (R8, D9). -/
theorem trem_sign (a b : Int) : trem a b = 0 ∨ (0 < trem a b ↔ 0 < a) := by
  have hsign := Int.sign_tmod a b
  rw [trem_eq_tmod]
  split at hsign
  · exact .inl (Int.sign_eq_zero_iff_zero.mp hsign)
  · exact .inr (by rw [← Int.sign_eq_one_iff_pos, hsign, Int.sign_eq_one_iff_pos])

/-- The remainder is no larger than the dividend and has its sign, so it is a word with it. -/
theorem isWord_trem {a b : Int} (ha : IsWord a) : IsWord (trem a b) := by
  have hle : (trem a b).natAbs ≤ a.natAbs := by
    rw [trem_eq_tmod, Int.natAbs_tmod]
    exact Nat.mod_le _ _
  have hsign := trem_sign a b
  simp only [IsWord, intMin, intMax] at *
  omega

/-- Settles O26: `trem` is the remainder of truncated division. -/
theorem quotientAndRemainderLaw : Obligations.QuotientAndRemainderLaw := by
  intro a b hb
  refine ⟨by rw [trem, add_sub_cancel], trem_sign a b, ?_, isWord_trem, fun ha _ h => isWord_tdiv ha h⟩
  rw [trem_eq_tmod, Int.natAbs_tmod]
  exact Nat.mod_lt _ (Int.natAbs_pos.mpr hb)

/-! ### ALLOC -/

theorem allocCheck_of_fits (hn : 0 < n.toInt) (h : s.sp.toInt + n.toInt ≤ s.cfg.maxStackSize) :
    allocCheck s n.toInt = .ok () :=
  (allocCheck_of_pos hn).trans (room_eq_ok.mpr h)

/-- A count of 0 or less passes where the frame holds what it drops (R134, D13). -/
theorem allocCheck_of_nonpos (hx : x ≤ 0) (h : -x ≤ s.sp.toInt - s.bp.toInt ∨ x = 0) : allocCheck s x = .ok () := by
  rcases hx.lt_or_eq with hneg | rfl
  · exact (allocCheck_of_neg hneg).trans (require_eq_ok.mpr (h.resolve_right hneg.ne))
  · rfl

theorem rule_alloc (h : allocCheck s n.toInt = .ok ()) :
    rule (.alloc n) s = .ok ((allocCells s n.toInt).setSp (s.sp.toInt + n.toInt)).advance :=
  bind_eq_ok.mpr ⟨(), h, rfl⟩

theorem StackCell.undefine_word (c : StackCell) (d : Nat) : (c.undefine d).word = c.word := by
  obtain ⟨w, _ | d'⟩ := c <;> rfl

/-- Undefining cells leaves every content unchanged (R134). -/
theorem Memory.lookup_undefine_word (m : Memory) (lo hi : Int) (d b : Nat) :
    ((m.undefine lo hi d).lookup b).map StackCell.word = (m.lookup b).map StackCell.word := by
  rw [Memory.lookup_undefine, Option.map_map]
  cases m.lookup b with
  | none => rfl
  | some c => by_cases hin : lo ≤ (b : Int) ∧ (b : Int) < hi <;> simp [hin, StackCell.undefine_word]

/-- Settles O39. -/
theorem allocResult : Obligations.AllocResult := by
  refine fun s n => ⟨fun hn hfits => ⟨s.mem.undefine s.sp.toInt (s.sp.toInt + n.toInt) s.nextDraw, ?_, ?_, ?_, ?_⟩,
    fun hn hframe => ?_⟩
  · have hrule := rule_alloc (allocCheck_of_fits hn hfits)
    rw [allocCells, if_pos hn] at hrule
    rw [← wrap_add_one, ← wrap_add]
    exact exec_eq_next.mpr (.inl hrule)
  · exact fun a hlo hhi => isDefined_undefineCells (s := s) ⟨hlo, hhi⟩
  · exact fun a => s.mem.lookup_undefine_word _ _ _ a
  · exact fun a => cellAt_undefineCells_ne (s := s)
  · have hrule := rule_alloc (n := n) (allocCheck_of_nonpos hn (hframe.imp_right toInt_eq_zero_iff.mpr))
    rw [allocCells, if_neg hn.not_gt] at hrule
    rw [← wrap_add_one, ← wrap_add]
    exact exec_eq_next.mpr (.inl hrule)

end Sys2Proof.Machine

/-! The statements about what an instruction raises: too few operands (20_memory.md R64), an undefined cell (R66), an
explicit address outside its window (R62). Where the check that fails is the first of its rule, that check says it all
(`raises_of_firstCheck`); where others come before it, a lemma for the rule says that they have passed. -/

namespace Sys2Proof.Machine

variable {s : State} {i : Instr} {e : FatalError} {off addr : Word} {n : Int}

theorem raises_of_rule (h : rule i s = .error e) : Raises i s e := exec_eq_next.mpr (.inr ⟨e, h, rfl⟩)

/-! ### The checks, one by one -/

theorem require_of_enough (h : n ≤ s.sp.toInt - s.bp.toInt) : require s n = .ok () := require_eq_ok.mpr h

theorem room_of_fits (h : s.sp.toInt + n ≤ s.cfg.maxStackSize) : room s n = .ok () := room_eq_ok.mpr h

theorem checkAddr_of_inside {ea lim : Int} (h0 : 0 ≤ ea) (hlt : ea < lim) : checkAddr ea lim = .ok () :=
  checkAddr_eq_ok.mpr ⟨h0, hlt⟩

theorem checkAddr_of_outside {ea lim : Int} (h : ¬ (0 ≤ ea ∧ ea < lim)) :
    checkAddr ea lim = .error (.addressOutOfBounds ea) :=
  checkAddr_eq_error.mpr ⟨h, rfl⟩

theorem require_of_tooFew (h : s.sp.toInt - s.bp.toInt < n) : require s n = .error (.insufficientOperands n) :=
  require_eq_error.mpr ⟨h, rfl⟩

theorem top_of_tooFew (h : s.sp.toInt - s.bp.toInt < 1) : top s = .error (.insufficientOperands 1) :=
  top_eq_error.mpr (.inl ⟨h, rfl⟩)

/-- With an operand in the frame, the cell of the top word lies in the memory. -/
theorem topCell_bounds (hf : FrameOK s) (hcount : 1 ≤ s.sp.toInt - s.bp.toInt) :
    0 ≤ s.sp.toInt - 1 ∧ s.sp.toInt - 1 < s.cfg.maxStackSize := by
  obtain ⟨-, hcap, hb, -⟩ := hf
  omega

theorem memRead_top_undefined (hf : FrameOK s) (hc : s.cfg.uninitCheck = true)
    (hcount : 1 ≤ s.sp.toInt - s.bp.toInt) (hd : s.isDefined (s.sp.toInt - 1).toNat = false) :
    memRead s (s.sp.toInt - 1) = .error (.undefinedRead (s.sp.toInt - 1)) := by
  obtain ⟨h0, h1⟩ := topCell_bounds hf hcount
  exact memRead_undefined h0 h1 hc hd

theorem memRead_belowTop_undefined (hf : FrameOK s) (hc : s.cfg.uninitCheck = true)
    (hcount : 2 ≤ s.sp.toInt - s.bp.toInt) (hd : s.isDefined (s.sp.toInt - 2).toNat = false) :
    memRead s (s.sp.toInt - 2) = .error (.undefinedRead (s.sp.toInt - 2)) := by
  obtain ⟨-, hcap, hb, -⟩ := hf
  exact memRead_undefined (by omega) (by omega) hc hd

/-! ### An explicit address outside its window -/

theorem RoomForOne.load_outside (hroom : RoomForOne s)
    (h : ¬ (0 ≤ s.frameAddr off ∧ s.frameAddr off < s.sp.toInt)) :
    Raises (.load off) s (.addressOutOfBounds (s.frameAddr off)) := by
  refine raises_of_rule ?_
  rw [rule, room_of_fits hroom, ok_bind, checkAddr_of_outside h, error_bind]

theorem store_outside (hcount : 1 ≤ s.sp.toInt - s.bp.toInt)
    (h : ¬ (0 ≤ s.frameAddr off ∧ s.frameAddr off < s.sp.toInt - 1)) :
    Raises (.store off) s (.addressOutOfBounds (s.frameAddr off)) := by
  refine raises_of_rule ?_
  rw [rule, require_of_enough hcount, ok_bind, checkAddr_of_outside h, error_bind]

/-- The window of STORESTACK comes after the read of its address and before that of its value (R137). -/
theorem storestack_outside (hcount : 2 ≤ s.sp.toInt - s.bp.toInt) (hread : memRead s s.topAddr = .ok addr)
    (h : ¬ (0 ≤ s.frameAddr addr ∧ s.frameAddr addr < s.sp.toInt - 2)) :
    Raises .storestack s (.addressOutOfBounds (s.frameAddr addr)) := by
  refine raises_of_rule ?_
  rw [rule, require_of_enough hcount, ok_bind, hread, ok_bind, checkAddr_of_outside h, error_bind]

/-! ### A cell that cannot be read, after the checks before it -/

theorem RoomForOne.load_unreadable (hroom : RoomForOne s) (h0 : 0 ≤ s.frameAddr off)
    (hlt : s.frameAddr off < s.sp.toInt) (hread : memRead s (s.frameAddr off) = .error e) :
    Raises (.load off) s e := by
  refine raises_of_rule ?_
  rw [rule, room_of_fits hroom, ok_bind, checkAddr_of_inside h0 hlt, ok_bind, hread, error_bind]

theorem store_unreadable (hcount : 1 ≤ s.sp.toInt - s.bp.toInt) (h0 : 0 ≤ s.frameAddr off)
    (hlt : s.frameAddr off < s.sp.toInt - 1) (hread : memRead s s.topAddr = .error e) :
    Raises (.store off) s e := by
  refine raises_of_rule ?_
  rw [rule, require_of_enough hcount, ok_bind, checkAddr_of_inside h0 hlt, ok_bind, hread, error_bind]

theorem storestack_addr_unreadable (hcount : 2 ≤ s.sp.toInt - s.bp.toInt) (hread : memRead s s.topAddr = .error e) :
    Raises .storestack s e := by
  refine raises_of_rule ?_
  rw [rule, require_of_enough hcount, ok_bind, hread, error_bind]

theorem storestack_value_unreadable (hcount : 2 ≤ s.sp.toInt - s.bp.toInt) (haddr : memRead s s.topAddr = .ok addr)
    (h0 : 0 ≤ s.frameAddr addr) (hlt : s.frameAddr addr < s.sp.toInt - 2)
    (hread : memRead s s.belowTopAddr = .error e) : Raises .storestack s e := by
  refine raises_of_rule ?_
  rw [rule, require_of_enough hcount, ok_bind, haddr, ok_bind, checkAddr_of_inside h0 hlt, ok_bind, hread,
    error_bind]

/-! ### The obligations -/

/-- Settles O31: the common rule reads the left operand first, and both before its function (`binaryAlu_eq_error`). -/
theorem aluUndefinedOperands : Obligations.AluUndefinedOperands := by
  refine fun s hf hc hcount => ⟨fun hd i hi => ?_, fun hleft hd i hi => ?_⟩ <;>
    obtain ⟨f, hrule⟩ := rule_of_binary (s := s) hi
  · have hread := memRead_belowTop_undefined hf hc hcount hd
    exact raises_of_rule (hrule.trans (binaryAlu_eq_error.mpr (.inr ⟨hcount, .inl hread⟩)))
  · obtain ⟨-, hcap, hb, -⟩ := id hf
    have hok := memRead_readable (s := s) (a := s.sp.toInt - 2) (by omega) (by omega) fun _ => hleft
    have hread := memRead_top_undefined hf hc (by omega) hd
    exact raises_of_rule (hrule.trans (binaryAlu_eq_error.mpr (.inr ⟨hcount, .inr ⟨_, hok, .inl hread⟩⟩)))

/-- Settles O38: one lemma for each of the three windows. -/
theorem addressOutsideWindowRaises : Obligations.AddressOutsideWindowRaises := by
  refine fun s offset hf => ⟨RoomForOne.load_outside, store_outside, fun hcount hread hv h => ?_⟩
  obtain ⟨h0, h1⟩ := topCell_bounds hf (by omega)
  have haddr := memRead_readable h0 h1 hread
  rw [hv] at haddr
  exact storestack_outside hcount haddr h

/-- Settles O40: `Require` is the first check of each of them, called by itself, by `top` or by `allocCheck`. -/
theorem tooFewOperandsRaises : Obligations.TooFewOperandsRaises := by
  refine fun s => ⟨fun h => ?_, fun h => raises_of_firstCheck (require_of_tooFew h) rfl, fun n hn h => ?_⟩
  · have hrequire := require_of_tooFew h
    have htop := top_of_tooFew h
    exact ⟨raises_of_firstCheck hrequire rfl, fun _ => raises_of_firstCheck hrequire rfl,
      raises_of_firstCheck htop rfl, fun _ => raises_of_firstCheck htop rfl, fun _ => raises_of_firstCheck htop rfl,
      raises_of_firstCheck htop rfl, raises_of_firstCheck htop rfl, raises_of_firstCheck htop rfl⟩
  · exact raises_of_firstCheck ((allocCheck_of_neg hn).trans (require_of_tooFew h)) rfl

/-- Settles O41: the readers of the top word fail in `top`, the others in the read their earlier checks lead to. -/
theorem undefinedCellRaises : Obligations.UndefinedCellRaises := by
  refine fun s w hf hc => ⟨fun hcount hd => ?_, fun hroom h0 hlt hd => ?_,
    fun hcount => ⟨fun hd => ?_, fun hd hv h0 hlt hd' => ?_⟩⟩
  · have hread := memRead_top_undefined hf hc hcount hd
    have htop := top_eq_error.mpr (.inr ⟨hcount, hread⟩)
    exact ⟨raises_of_firstCheck htop rfl, raises_of_firstCheck htop rfl, raises_of_firstCheck htop rfl,
      raises_of_firstCheck htop rfl, raises_of_firstCheck htop rfl, raises_of_firstCheck htop rfl,
      raises_of_firstCheck htop rfl, fun h0 hlt => store_unreadable hcount h0 hlt hread⟩
  · obtain ⟨-, hcap, -⟩ := hf
    exact hroom.load_unreadable h0 hlt (memRead_undefined h0 (hlt.trans_le hcap) hc hd)
  · exact storestack_addr_unreadable hcount (memRead_top_undefined hf hc (by omega) hd)
  · obtain ⟨htop0, htop1⟩ := topCell_bounds hf (by omega)
    have haddr := memRead_readable htop0 htop1 fun _ => hd
    rw [hv] at haddr
    exact storestack_value_unreadable hcount haddr h0 hlt (memRead_belowTop_undefined hf hc hcount hd')

end Sys2Proof.Machine

/-! The statements about the step (60_exceptions.md R203), STATUS (10_state.md R42) and the output channel (20_memory.md
R79). A step adds to OUT the event it offers or nothing (`step_out`), and what it does with an offered event turns on
the host's answer alone. -/

namespace Sys2Proof.Machine

variable {s t : State} {i : Instr} {e : OutEvent} {k : OutKind}

/-! ### The step -/

/-- Settles O8: a slot at pc puts pc inside the program, so the instruction passes the front end. -/
theorem stepExecutesDecodedInstruction : Obligations.StepExecutesDecodedInstruction := by
  rintro s sl i ⟨hrst, hrun⟩ hf h0 hsl hd
  obtain ⟨hlen, -⟩ := List.getElem?_eq_some_iff.mp hsl
  have hlt : s.pc.toInt < s.progLen := (Int.toNat_lt h0).mp hlen
  have hfe := frontEnd_eq_inr.mpr ⟨hrst, hrun, hf, h0, hlt, sl, hsl, hd⟩
  rw [step, hfe]

/-- Settles O12: a running core dispatches an instruction, which has a next state, or halts. -/
theorem stepsExactlyWhileRunning : Obligations.StepsExactlyWhileRunning := by
  refine fun s => ⟨fun hr => ?_, fun ⟨t, h⟩ => ?_⟩
  · rcases frontEnd_of_running hr with ⟨i, hfe⟩ | ⟨code, hfe⟩
    · rw [step, hfe]
      exact exec_isNext i s
    · exact ⟨_, by rw [step, hfe s.mem]⟩
  · obtain ⟨hrst, hrun, -⟩ := step_eq_next h
    exact ⟨hrst, hrun⟩

/-! ### STATUS -/

/-- The fields of STATUS lie side by side (R42). -/
theorem statusWord_fields (code : BitVec 4) (halted : BitVec 1) :
    let w := (0 : BitVec 24) ++ code ++ (0 : BitVec 3) ++ halted
    w.getLsbD 0 = halted.getLsbD 0 ∧ w.extractLsb' 4 4 = code ∧ w.extractLsb' 1 3 = 0 ∧ w.extractLsb' 8 24 = 0 := by
  refine ⟨BitVec.getLsbD_append, ?_, ?_, ?_⟩
  · rw [BitVec.extractLsb'_append_eq_of_le (by decide), BitVec.extractLsb'_append_eq_of_le (by decide)]
    exact BitVec.extractLsb'_append_eq_right
  · rw [BitVec.extractLsb'_append_eq_of_le (by decide)]
    exact BitVec.extractLsb'_append_eq_right
  · rw [BitVec.extractLsb'_append_eq_of_le (by decide), BitVec.extractLsb'_append_eq_of_le (by decide)]
    exact BitVec.extractLsb'_append_eq_left

/-- Settles O58: the four fields of the word (`statusWord_fields`), and the two tables by evaluation. -/
theorem statusWordFields : Obligations.StatusWordFields := by
  intro s
  obtain ⟨hhalted, hcode, hlow, hhigh⟩ := statusWord_fields s.err.bits (if s.run = .halted then 1 else 0)
  refine ⟨?_, hcode, hlow, hhigh, ?_, ?_⟩
  · rw [statusWord, hhalted]
    split <;> simp [*]
  · exact ⟨rfl, fun _ => rfl, fun _ => rfl, fun _ => rfl, fun _ => rfl, fun _ => rfl, fun _ => rfl, fun _ => rfl⟩
  · exact ⟨rfl, rfl, rfl, rfl, rfl, rfl, rfl, rfl, rfl, rfl⟩

/-! ### OUT -/

/-- A step appends the event it offers, or nothing. -/
theorem step_out (h : step s = .next t) : t.out = s.out ∨ ∃ e, s.offering = some e ∧ t.out = s.out ++ [e] := by
  obtain ⟨-, -, hc⟩ := step_eq_next h
  cases hc with
  | completed i hfe hr =>
    cases hk : printKind i with
    | none =>
      refine .inl ((rule_shape hr).out_eq ?_ ?_) <;> rintro rfl <;> cases hk
    | some k =>
      rw [rule_of_printKind hk] at hr
      obtain ⟨v, htop, rfl⟩ := printTop_eq_ok.mp hr
      cases s.ready.now with
      | true => exact .inr ⟨_, offering_eq_some.mpr ⟨i, hfe, hk, htop⟩, rfl⟩
      | false => exact .inl rfl
  | frameCheck _ ht | finish _ _ ht | pcBounds _ _ ht | unknownOp _ _ ht | raised _ _ _ _ ht => exact .inl (ht ▸ rfl)

/-- An event is offered by a step that dispatches a print. -/
theorem dispatches_print_of_offering (h : s.offering = some e) :
    frontEnd s = .inr .printc ∨ frontEnd s = .inr .printint := by
  obtain ⟨i, hfe, hk, -⟩ := offering_eq_some.mp h
  rcases printKind_eq_some.mp hk with ⟨rfl, -⟩ | ⟨rfl, -⟩
  · exact .inl hfe
  · exact .inr hfe

/-- Settles O21: the event appended is the one offered (`step_out`). -/
theorem outputGrowsInOrder : Obligations.OutputGrowsInOrder := fun _ _ h =>
  (step_out h).imp_right fun ⟨e, hoffer, hout⟩ => ⟨e, hout, dispatches_print_of_offering hoffer⟩

/-! ### The output signals -/

theorem ports_of_offering (h : s.offering = some e) :
    s.ports.outValid = true ∧ s.ports.event = some (e.kind.bit, e.value) := by
  simp [State.ports, h]

/-- A dispatched print whose operand is there offers its event, whatever the host answers. -/
theorem OneOperand.offering_eq (h1 : OneOperand s) (hfe : frontEnd s = .inr i) (hk : printKind i = some k) :
    s.offering = some ⟨k, valueAt s (s.sp.toInt - 1)⟩ :=
  offering_eq_some.mpr ⟨i, hfe, hk, h1.top_eq (frameOK_of_dispatch hfe)⟩

theorem fetches_of_dispatch (hfe : frontEnd s = .inr i) (ho : s.offer = none) : s.fetches := by
  obtain ⟨hrst, hrun, hf, h0, hlt, -⟩ := frontEnd_eq_inr.mp hfe
  exact ⟨hrst, hrun, hf, h0, hlt, ho⟩

/-- Settles O60: out_valid and the event follow `State.offering`, which is that of the print the step dispatches. -/
theorem outputSignalsShowEveryEvent : Obligations.OutputSignalsShowEveryEvent := by
  refine fun s => ⟨fun h1 => ⟨fun hfe => ?_, fun hfe => ?_⟩, fun hvalid => ?_, fun t e h hout => ?_,
    fun e hi ho => ?_, fun i hfe ho => ?_⟩
  · exact ports_of_offering (h1.offering_eq hfe rfl)
  · exact ports_of_offering (h1.offering_eq hfe rfl)
  · obtain ⟨e, hoffer⟩ := Option.isSome_iff_exists.mp hvalid
    obtain ⟨i, hfe, -, htop⟩ := offering_eq_some.mp hoffer
    obtain ⟨hrst, hrun, -⟩ := frontEnd_eq_inr.mp hfe
    exact ⟨⟨hrst, hrun⟩, oneOperand_of_top htop, dispatches_print_of_offering hoffer⟩
  · rcases step_out h with hsame | ⟨e', hoffer, hout'⟩
    · simp [hsame] at hout
    · obtain rfl : e' = e := by simpa [hout'] using hout
      exact (ports_of_offering hoffer).2
  · exact (ports_of_offering (hi.offers e ho).offering_eq).2
  · exact if_pos (fetches_of_dispatch hfe ho)

/-! ### Waiting for the host -/

/-- A step that offers an event completes its print where the host accepts, and waits where it refuses. -/
theorem step_of_offering (h : s.offering = some e) : step s =
    .next (if s.ready.now then ((s.accept e).setSp (s.sp.toInt - 1)).advance else s.wait e) := by
  obtain ⟨i, hfe, hk, htop⟩ := offering_eq_some.mp h
  have hrule := (rule_of_printKind hk).trans (printTop_eq_ok.mpr ⟨_, htop, rfl⟩)
  rw [step, hfe]
  exact exec_eq_next.mpr (.inl hrule)

theorem step_of_refused (h : s.offering = some e) (hr : s.ready.now = false) : step s = .next (s.wait e) := by
  rw [step_of_offering h, hr, if_neg Bool.false_ne_true]

theorem step_of_accepted (h : s.offering = some e) (hr : s.ready.now = true) :
    step s = .next { s with
      sp := s.sp - 1, pc := s.pc + 1, out := s.out ++ [e], offer := none, ready := s.ready.later } := by
  rw [step_of_offering h, if_pos hr, ← wrap_sub_one, ← wrap_add_one]
  rfl

theorem run_succ (n : Nat) (h : step s = .next t) : core.run (n + 1) s = core.run n t := by
  have hcore : core.step s = .next t := h
  simp only [Host.Core.run, hcore]

/-- After any number of refusals the first acceptance completes the print (R79, R241). -/
theorem run_of_offering (h : s.offering = some e) {n : Nat} {rest : List Bool}
    (hsamples : s.ready.samples = List.replicate n false ++ true :: rest) :
    core.run (n + 1) s = .next { s with
      sp := s.sp - 1, pc := s.pc + 1, out := s.out ++ [e], offer := none
      ready := { s.ready with samples := rest } } := by
  induction n generalizing s with
  | zero =>
    have hnow : s.ready.now = true := by rw [OutReady.now, hsamples]; rfl
    have hlater : s.ready.later = { s.ready with samples := rest } := by rw [OutReady.later, hsamples]; rfl
    rw [run_succ 0 (step_of_accepted h hnow), hlater]
    rfl
  | succ n ih =>
    have hnow : s.ready.now = false := by rw [OutReady.now, hsamples]; rfl
    have hlater : (s.wait e).ready.samples = List.replicate n false ++ true :: rest := by
      rw [State.wait_ready, OutReady.later, hsamples]; rfl
    rw [run_succ (n + 1) (step_of_refused h hnow), ih (offerPending_wait h).offering_eq hlater]
    rfl

/-- Settles O51: a waiting print offers its event again, so the refusals are an induction (`run_of_offering`). -/
theorem printWaitsUntilAccepted : Obligations.PrintWaitsUntilAccepted := by
  intro s k rest e h1 hprint hv hsamples
  have hoffer : s.offering = some e := by
    obtain ⟨kind, value⟩ := e
    obtain rfl := hv
    rcases hprint with ⟨hfe, rfl⟩ | ⟨hfe, rfl⟩ <;> exact h1.offering_eq hfe rfl
  refine ⟨fun hk => ?_, run_of_offering hoffer hsamples⟩
  obtain ⟨n, rfl⟩ := Nat.exists_eq_succ_of_ne_zero hk.ne'
  exact step_of_refused hoffer (by rw [OutReady.now, hsamples]; rfl)

end Sys2Proof.Machine

/-! The statements about the two sequences of call-frame instructions (43_frames.md R163, R164). Each is read off the
rules of its instructions one after the other, with the cell that the earlier one left for the later one. -/

namespace Sys2Proof.Machine

variable {s : State} {m : Memory} {a : Int} {v w : Word}

/-! ### Words next to each other -/

/-- A word of at least 1 is lowered by one without a wrap. -/
theorem toInt_sub_one (h : 1 ≤ w.toInt) : (w - 1).toInt = w.toInt - 1 := by
  obtain ⟨-, hmax⟩ := toInt_bounds w
  rw [← wrap_sub_one, toInt_wrap ⟨by simp only [intMin]; omega, by omega⟩]

theorem add_one_add_one (w : Word) : w + 1 + 1 = w + 2 := add_assoc w 1 1

/-! ### PUSHSTACK, POPSTACK -/

/-- The written cell reads as its word. -/
theorem WritesCell.memRead_eq {t : State} (h : WritesCell s m a v) (hmem : t.mem = m) (h0 : 0 ≤ a)
    (h1 : a < t.cfg.maxStackSize) : memRead t a = .ok v := by
  obtain ⟨hcell, -⟩ := h
  have hat : t.cellAt a.toNat = some ⟨v, .defined⟩ := (congrArg (Memory.lookup · a.toNat) hmem).trans hcell
  have hdef : t.isDefined a.toNat = true := by rw [State.isDefined, hat]
  exact memRead_eq_ok.mpr ⟨⟨h0, h1⟩, fun _ => hdef, (cellWord_of_defined hat).symm⟩

/-- Settles O48: POPSTACK finds the link that PUSHSTACK has saved, which FrameOK bounds. -/
theorem frameRoundTrip : Obligations.FrameRoundTrip := by
  intro s hc hf hroom
  obtain ⟨m, hpush, hcell⟩ := pushstackResult s hf hroom
  refine ⟨_, m, hpush, ?_, hcell⟩
  obtain ⟨hsp0, -, hb0, -, hbsp⟩ := hf
  have hbp : (s.sp + 1).toInt = s.sp.toInt + 1 := by
    rw [← wrap_add_one, toInt_wrap_of_le_capacity hc (by omega) hroom]
  have hlink := hcell.memRead_eq (t := { s with mem := m, sp := s.sp + 1, bp := s.sp + 1, pc := s.pc + 1 }) rfl hsp0
    hroom
  rw [exec_popstack_of_link (link := s.bp)]
  · simp only [add_sub_cancel_right, add_one_add_one]
  · simp only [hbp]
    omega
  · simpa only [hbp, add_sub_cancel_right] using hlink
  · simp only [hbp]
    omega

/-! ### RETURN, POPSTACK, UNFRAME -/

/-- In reading A, POPSTACK and UNFRAME leave rv in the slot of FRAME as the top of the caller's frame, and go to the
return address that stood there (R161, R165). -/
theorem popstack_unframe (hcap : s.bp.toInt ≤ s.cfg.maxStackSize) (hA : s.cfg.unframePops = false)
    (hreadLink : Readable s (s.bp.toInt - 1)) (hreadRet : Readable s (s.bp.toInt - 2))
    (hlink0 : 0 ≤ (valueAt s (s.bp.toInt - 1)).toInt)
    (hlinkMax : (valueAt s (s.bp.toInt - 1)).toInt ≤ s.bp.toInt - 2) :
    ∃ u m, exec .popstack s = .next u ∧
      exec .unframe u = .next { s with
        mem := m, sp := s.bp - 1, bp := valueAt s (s.bp.toInt - 1), rv := 0, pc := valueAt s (s.bp.toInt - 2) } ∧
      WritesCell s m (s.bp.toInt - 2) s.rv := by
  have hsp := toInt_sub_one (w := s.bp) (by omega)
  have htop : s.bp.toInt - 1 - 1 = s.bp.toInt - 2 := by omega
  have hlink := memRead_readable (by omega) (by omega) hreadLink
  have hpop := exec_popstack_of_link (by omega) hlink ⟨hlink0, by omega⟩
  obtain ⟨m, hunframe, hcell⟩ := unframeResult
    { s with sp := s.bp - 1, bp := valueAt s (s.bp.toInt - 1), pc := s.pc + 1 }
    (by simp only [FrameOK, hsp]; omega)
    ⟨by simp only [hsp]; omega, by simp only [hsp, htop]; exact hreadRet⟩
  refine ⟨_, m, hpop, ?_, ?_⟩
  · simp only [hA, hsp, htop, Bool.false_eq_true, if_false] at hunframe
    exact hunframe
  · simp only [hsp, htop] at hcell
    exact hcell

/-- Settles O49: RETURN puts the result into rv, which POPSTACK and UNFRAME leave in the caller's frame
(`popstack_unframe`). -/
theorem callProtocolDeliversResult : Obligations.CallProtocolDeliversResult := by
  intro s hf h1 hA hreadLink hreadRet hlink0 hlinkMax
  obtain ⟨-, -, -, hcap, -⟩ := id hf
  obtain ⟨u, m, hpop, hunframe, hcell⟩ := popstack_unframe
    (s := { s with sp := s.sp - 1, rv := valueAt s (s.sp.toInt - 1), pc := s.pc + 1 })
    hcap hA hreadLink hreadRet hlink0 hlinkMax
  exact ⟨_, u, m, returnResult s hf h1, hpop, hunframe, hcell⟩

end Sys2Proof.Machine

/-! The statement about which instructions raise which errors (60_exceptions.md R200). The checks and reads that an
instruction is made of raise only their own errors, and from a state with FrameOK no safety net is reached, so the
cause of an error names the check that failed and the instructions that make it. -/

namespace Sys2Proof.Machine

variable {s : State} {i : Instr} {e : FatalError}

/-! ### The raised-by column of R200 -/

/-- The instructions that call Room (R65). -/
def NeedsRoom (i : Instr) : Prop :=
  (∃ n, i = .push n) ∨ (∃ n, i = .load n) ∨ (∃ n, i = .frame n) ∨ i = .storesp ∨ i = .storespoffset ∨
    i = .pushstack ∨ ∃ n : Word, i = .alloc n ∧ 0 < n.toInt

/-- The instructions that call Require (R64). -/
def NeedsOperands (i : Instr) : Prop :=
  i ∈ binaryInstrs ∨ i = .not ∨ i = .pop ∨ (∃ n, i = .store n) ∨ (∃ n : Word, i = .alloc n ∧ n.toInt < 0) ∨
    i = .unframe ∨ i = .storestack ∨ (∃ n, i = .jmpt n) ∨ (∃ n, i = .jmpf n) ∨ i = .printc ∨ i = .printint ∨ i = .ret

/-- The instructions that read a stack cell (R66): all but nine. -/
def ReadsCell (i : Instr) : Prop :=
  (∀ n, i ≠ .push n) ∧ i ≠ .pop ∧ (∀ n, i ≠ .alloc n) ∧ (∀ n, i ≠ .frame n) ∧ i ≠ .storesp ∧ i ≠ .storespoffset ∧
    (∀ n, i ≠ .goto n) ∧ (∀ n, i ≠ .jump n) ∧ i ≠ .pushstack

/-- Why instruction `i` raises an error, as the column has it. -/
inductive Cause (s : State) (i : Instr) : FatalError → Prop where
  | full (h : NeedsRoom i) : Cause s i .stackOverflow
  | tooFew (n : Int) (h : NeedsOperands i) : Cause s i (.insufficientOperands n)
  | frame (c : FrameCause) (h : i = .popstack) : Cause s i (.frameInvariantViolation c)
  | arithmetic (c : ArithCause)
      (h : i = .div ∨ i = .mod ∨ (s.cfg.overflowTrap = true ∧ (i = .add ∨ i = .sub ∨ i = .mul))) :
      Cause s i (.arithmeticError c)
  | outside (ea : Int) (h : (∃ n, i = .load n) ∨ (∃ n, i = .store n) ∨ i = .storestack) :
      Cause s i (.addressOutOfBounds ea)
  | undefined (a : Int) (hc : s.cfg.uninitCheck = true) (h : ReadsCell i) : Cause s i (.undefinedRead a)

/-! ### What each check raises -/

theorem Cause.of_require {n : Int} (hi : NeedsOperands i) (h : require s n = .error e) : Cause s i e := by
  obtain ⟨-, rfl⟩ := require_eq_error.mp h
  exact .tooFew n hi

theorem Cause.of_room {k : Int} (hi : NeedsRoom i) (h : room s k = .error e) : Cause s i e := by
  obtain ⟨-, rfl⟩ := room_eq_error.mp h
  exact .full hi

theorem Cause.of_checkAddr {ea lim : Int} (hi : (∃ n, i = .load n) ∨ (∃ n, i = .store n) ∨ i = .storestack)
    (h : checkAddr ea lim = .error e) : Cause s i e := by
  obtain ⟨-, rfl⟩ := checkAddr_eq_error.mp h
  exact .outside ea hi

/-- A read inside the memory can only find its cell undefined. -/
theorem Cause.of_memRead {a : Int} (hi : ReadsCell i) (h0 : 0 ≤ a) (h1 : a < s.cfg.maxStackSize)
    (h : memRead s a = .error e) : Cause s i e := by
  rcases memRead_eq_error.mp h with ⟨hout, -⟩ | ⟨-, hc, -, rfl⟩
  · exact absurd ⟨h0, h1⟩ hout
  · exact .undefined a hc hi

/-- A write inside the memory raises nothing. -/
theorem memWrite_ne_error {a : Int} {v : Word} (h0 : 0 ≤ a) (h1 : a < s.cfg.maxStackSize) :
    memWrite s a v ≠ .error e :=
  fun h => (memWrite_eq_error.mp h).1 ⟨h0, h1⟩

theorem Cause.of_top (hf : FrameOK s) (hi : NeedsOperands i) (hr : ReadsCell i) (h : top s = .error e) :
    Cause s i e := by
  rcases top_eq_error.mp h with ⟨-, rfl⟩ | ⟨hcount, hread⟩
  · exact .tooFew 1 hi
  · obtain ⟨h0, h1⟩ := topCell_bounds hf hcount
    exact .of_memRead hr h0 h1 hread

theorem Cause.of_roomPush {v : Word} {f : State → State} (hf : FrameOK s) (hi : NeedsRoom i)
    (h : ((roomPush s v).bind fun t => .ok (f t)) = .error e) : Cause s i e := by
  obtain ⟨hsp, -⟩ := hf
  rcases bind_eq_error.mp h with h | ⟨t, -, h⟩
  · rcases roomPush_eq_error h with ⟨-, rfl⟩ | ⟨hneg, -⟩
    · exact .full hi
    · exact absurd hsp hneg.not_ge
  · cases h

/-- A binary instruction raises for its operands, or what its function raises (R102). -/
theorem Cause.of_binaryAlu {f : Word → Word → Except FatalError Word} (hf : FrameOK s) (hi : i ∈ binaryInstrs)
    (hr : ReadsCell i) (hfun : ∀ a b, f a b = .error e → Cause s i e) (h : binaryAlu s f = .error e) :
    Cause s i e := by
  obtain ⟨-, hcap, hb, -⟩ := hf
  rcases binaryAlu_eq_error.mp h with ⟨-, rfl⟩ | ⟨hcount, hleft | ⟨a, -, hright | ⟨b, -, hab⟩⟩⟩
  · exact .tooFew 2 (.inl hi)
  · exact .of_memRead hr (by omega) (by omega) hleft
  · exact .of_memRead hr (by omega) (by omega) hright
  · exact hfun a b hab

theorem Cause.of_narrow {x : Int} (hi : i = .add ∨ i = .sub ∨ i = .mul) (h : narrow s.cfg x = .error e) :
    Cause s i e := by
  obtain ⟨rfl, -, ht⟩ := narrow_eq_error.mp h
  exact .arithmetic _ (.inr (.inr ⟨ht, hi⟩))

theorem Cause.of_divide {a b : Word} (hi : i = .div) (h : divide s.cfg a b = .error e) : Cause s i e := by
  unfold divide at h
  split at h
  · obtain rfl := Except.error.inj h
    exact .arithmetic _ (.inl hi)
  · obtain ⟨rfl, -⟩ := narrow_eq_error.mp h
    exact .arithmetic _ (.inl hi)

theorem Cause.of_remainder {a b : Word} (hi : i = .mod) (h : remainder a b = .error e) : Cause s i e := by
  unfold remainder at h
  split at h
  · obtain rfl := Except.error.inj h
    exact .arithmetic _ (.inr (.inl hi))
  · cases h

theorem Cause.of_compareAlu {g : Word → Word → Bool} (hf : FrameOK s) (hi : i ∈ binaryInstrs) (hr : ReadsCell i)
    (h : compareAlu s g = .error e) : Cause s i e :=
  .of_binaryAlu hf hi hr (fun _ _ h => by cases h) h

theorem Cause.of_jumpWhen {p : Word → Bool} {delta : Word} (hf : FrameOK s) (hi : NeedsOperands i)
    (hr : ReadsCell i) (h : jumpWhen p delta s = .error e) : Cause s i e :=
  .of_top hf hi hr (jumpWhen_eq_error.mp h)

theorem Cause.of_printTop {k : OutKind} (hf : FrameOK s) (hi : NeedsOperands i) (hr : ReadsCell i)
    (h : printTop k s = .error e) : Cause s i e :=
  .of_top hf hi hr (printTop_eq_error.mp h)

/-- NOT and UNFRAME write the cell they have read. -/
theorem Cause.of_top_memWrite {f : Word → Word} {g : Word → State → State} (hf : FrameOK s) (hi : NeedsOperands i)
    (hr : ReadsCell i)
    (h : ((top s).bind fun v => (memWrite s s.topAddr (f v)).bind fun t => .ok (g v t)) = .error e) :
    Cause s i e := by
  rcases bind_eq_error.mp h with htop | ⟨v, htop, h⟩
  · exact .of_top hf hi hr htop
  · obtain ⟨h0, h1⟩ := topCell_bounds hf (top_eq_ok.mp htop).1
    rcases bind_eq_error.mp h with hwrite | ⟨t, -, h⟩
    · exact absurd hwrite (memWrite_ne_error h0 h1)
    · cases h

/-! ### The instructions with checks of their own -/

theorem Cause.of_load {off : Word} (hf : FrameOK s) (h : rule (.load off) s = .error e) : Cause s (.load off) e := by
  obtain ⟨hsp0, hcap, -⟩ := hf
  simp only [rule, bind_eq_error] at h
  rcases h with hroom | ⟨_, hroom, hwindow | ⟨_, hwindow, hread | ⟨v, -, hpush | ⟨t, -, h⟩⟩⟩⟩
  · exact .of_room (by simp [NeedsRoom]) hroom
  · exact .of_checkAddr (by simp) hwindow
  · obtain ⟨h0, hlt⟩ := checkAddr_eq_ok.mp hwindow
    exact .of_memRead (by simp [ReadsCell]) h0 (hlt.trans_le hcap) hread
  · have hfits := room_eq_ok.mp hroom
    exact absurd ⟨hsp0, by omega⟩ (push_eq_error.mp hpush).1
  · cases h

theorem Cause.of_store {off : Word} (hf : FrameOK s) (h : rule (.store off) s = .error e) :
    Cause s (.store off) e := by
  simp only [rule, bind_eq_error] at h
  rcases h with hcount | ⟨_, hcount, hwindow | ⟨_, hwindow, hread | ⟨v, -, hwrite | ⟨t, -, h⟩⟩⟩⟩
  · exact .of_require (by simp [NeedsOperands]) hcount
  · exact .of_checkAddr (by simp) hwindow
  · obtain ⟨h0, h1⟩ := topCell_bounds hf (require_eq_ok.mp hcount)
    exact .of_memRead (by simp [ReadsCell]) h0 h1 hread
  · obtain ⟨-, hcap, -⟩ := hf
    obtain ⟨h0, hlt⟩ := checkAddr_eq_ok.mp hwindow
    exact absurd hwrite (memWrite_ne_error h0 (by omega))
  · cases h

theorem Cause.of_storestack (hf : FrameOK s) (h : rule .storestack s = .error e) : Cause s .storestack e := by
  have hreads : ReadsCell .storestack := by simp [ReadsCell]
  obtain ⟨-, hcap, hb0, -⟩ := hf
  simp only [rule, bind_eq_error, State.topAddr, State.belowTopAddr] at h
  rcases h with hcount | ⟨_, hcount, haddr | ⟨addr, -, hwindow | ⟨_, hwindow, hread | ⟨v, -, hwrite | ⟨t, -, h⟩⟩⟩⟩⟩
  · exact .of_require (by simp [NeedsOperands]) hcount
  · have := require_eq_ok.mp hcount
    exact .of_memRead hreads (by omega) (by omega) haddr
  · exact .of_checkAddr (by simp) hwindow
  · have := require_eq_ok.mp hcount
    exact .of_memRead hreads (by omega) (by omega) hread
  · obtain ⟨h0, hlt⟩ := checkAddr_eq_ok.mp hwindow
    exact absurd hwrite (memWrite_ne_error h0 (by omega))
  · cases h

theorem Cause.of_alloc {n : Word} (h : rule (.alloc n) s = .error e) : Cause s (.alloc n) e := by
  rcases bind_eq_error.mp h with hcheck | ⟨_, -, h⟩
  · rcases lt_trichotomy n.toInt 0 with hneg | hzero | hpos
    · rw [allocCheck_of_neg hneg] at hcheck
      exact .of_require (by simp [NeedsOperands, binaryInstrs, hneg]) hcheck
    · rw [hzero] at hcheck
      cases hcheck
    · rw [allocCheck_of_pos hpos] at hcheck
      exact .of_room (by simp [NeedsRoom, hpos]) hcheck
  · cases h

theorem Cause.of_popstack (hf : FrameOK s) (h : rule .popstack s = .error e) : Cause s .popstack e := by
  by_cases hb : s.bp.toInt < 1
  · rw [rule_popstack_of_outermost hb] at h
    obtain rfl := Except.error.inj h
    exact .frame _ rfl
  · obtain ⟨h0, h1⟩ := linkAddr_bounds hf (not_lt.mp hb)
    rw [rule_popstack_of_enclosed (not_lt.mp hb)] at h
    rcases bind_eq_error.mp h with hread | ⟨link, -, h⟩
    · exact .of_memRead (by simp [ReadsCell]) h0 h1 hread
    · rcases bind_eq_error.mp h with hlink | ⟨_, -, h⟩
      · obtain ⟨-, rfl⟩ := checkLink_eq_error.mp hlink
        exact .frame _ rfl
      · cases h

/-- Every error of an instruction has its cause in R200's column, from a state with FrameOK. -/
theorem rule_cause (hf : FrameOK s) (h : rule i s = .error e) : Cause s i e := by
  cases i with
  | add | sub | mul =>
    exact .of_binaryAlu hf (by decide) (by simp [ReadsCell]) (fun _ _ => .of_narrow (by simp)) h
  | div => exact .of_binaryAlu hf (by decide) (by simp [ReadsCell]) (fun _ _ => .of_divide rfl) h
  | mod => exact .of_binaryAlu hf (by decide) (by simp [ReadsCell]) (fun _ _ => .of_remainder rfl) h
  | less | leq | eq | neq | geq | greater | and | or => exact .of_compareAlu hf (by decide) (by simp [ReadsCell]) h
  | not =>
    exact .of_top_memWrite (f := fun v => boolWord (!truthy v)) (g := fun _ => State.advance) hf
      (by simp [NeedsOperands]) (by simp [ReadsCell]) h
  | unframe =>
    exact .of_top_memWrite (f := fun _ => s.rv) (g := fun r t => ((t.setRv 0).setSp (unframeSp s)).setPc r) hf
      (by simp [NeedsOperands]) (by simp [ReadsCell]) h
  | push | frame | storesp | storespoffset => exact .of_roomPush (f := State.advance) hf (by simp [NeedsRoom]) h
  | pushstack => exact .of_roomPush (f := fun t => (t.setBp t.sp).advance) hf (by simp [NeedsRoom]) h
  | pop =>
    rcases bind_eq_error.mp h with hcount | ⟨_, -, h⟩
    · exact .of_require (by simp [NeedsOperands]) hcount
    · cases h
  | ret =>
    rcases bind_eq_error.mp h with htop | ⟨_, -, h⟩
    · exact .of_top hf (by simp [NeedsOperands]) (by simp [ReadsCell]) htop
    · cases h
  | load => exact .of_load hf h
  | store => exact .of_store hf h
  | storestack => exact .of_storestack hf h
  | alloc => exact .of_alloc h
  | popstack => exact .of_popstack hf h
  | goto | jump => cases h
  | jmpt | jmpf => exact .of_jumpWhen hf (by simp [NeedsOperands]) (by simp [ReadsCell]) h
  | printc | printint => exact .of_printTop hf (by simp [NeedsOperands]) (by simp [ReadsCell]) h

/-- Settles O15: an instruction that halts a running core has raised, and its error has a cause (`rule_cause`). -/
theorem errorsAndTheirSources : Obligations.ErrorsAndTheirSources := by
  intro i s t hf hrun h ht
  rcases exec_eq_next.mp h with hok | ⟨e, herr, rfl⟩
  · obtain ⟨hkept, -⟩ := (rule_shape hok).run_err_eq
    simp [hkept, hrun] at ht
  · cases rule_cause hf herr with
    | full hi => exact ⟨fun _ => hi, nofun, nofun, nofun, nofun, nofun, nofun, nofun, nofun, nofun⟩
    | tooFew n hi => exact ⟨nofun, fun _ => hi, nofun, nofun, nofun, nofun, nofun, nofun, nofun, nofun⟩
    | frame c hi => exact ⟨nofun, nofun, fun _ => hi, nofun, nofun, nofun, nofun, nofun, nofun, nofun⟩
    | arithmetic c hi => exact ⟨nofun, nofun, nofun, fun _ => hi, nofun, nofun, nofun, nofun, nofun, nofun⟩
    | outside ea hi => exact ⟨nofun, nofun, nofun, nofun, fun _ => hi, nofun, nofun, nofun, nofun, nofun⟩
    | undefined a hc hi => exact ⟨nofun, nofun, nofun, nofun, nofun, fun _ => ⟨hc, hi⟩, nofun, nofun, nofun, nofun⟩

end Sys2Proof.Machine
